-- ==== Sys2Proof/Word.lean ====
section
/-! DEFINITION. The words the machine works on (00_scope.md R7, R9): every value is an unsigned bit vector, bit 0 the
least significant. -/

namespace Sys2Proof

/-- One bus word, 32 bits: the unit of every host access (20_memory.md R57). -/
abbrev Word := BitVec 32

/-- One byte of a byte sequence (00_scope.md R11). -/
abbrev Byte := BitVec 8

/-- A half-block of the Feistel network (00_scope.md R7). -/
abbrev Half := BitVec 32

/-- A cipher block (00_scope.md R7). -/
abbrev Block := BitVec 64

/-- A round subkey (00_scope.md R7). -/
abbrev Subkey := BitVec 48

/-- One lane of the Keccak state (44_identity_economics.md R182). -/
abbrev Lane := BitVec 64

end Sys2Proof
end

