-- ==== Sys2Proof/Machine/Bits.lean ====
section
/-! DEFINITION. The datapath primitives of 40_bitvector.md: DES positions, table permutation, rotation, words of a wide
register, and byte sequences. -/

namespace Sys2Proof.Machine

/-- `pos_n(v, p)`: DES position `p` of an `n`-bit value, counted from 1 at the most significant bit (00_scope.md R10). -/
def pos {n : Nat} (v : BitVec n) (p : Nat) : Bool :=
  v.getLsbD (n - p)

/-- `Permute(T, v)`: output DES position i is source position T[i], so that T[1] picks the most significant output bit
(40_bitvector.md R100). `m` is the number of entries of the table. -/
def permute {n : Nat} (m : Nat) (t : List Nat) (v : BitVec n) : BitVec m :=
  (BitVec.ofBoolListBE (t.map (pos v))).setWidth m

/-- `rotl_w(v, n)`, the left rotation, `n` reduced modulo the width (40_bitvector.md R102). -/
def rotl {w : Nat} (v : BitVec w) (n : Nat) : BitVec w :=
  (v <<< (n % w)) ||| (v >>> (w - n % w))

/-- Word `k` of a wide register: its bits [32k+31:32k] (20_memory.md R51). -/
def getWord {w : Nat} (v : BitVec w) (k : Nat) : Word :=
  v.extractLsb' (32 * k) 32

/-- A wide register with its word `k` replaced (20_memory.md R51, R61). -/
def setWord {w : Nat} (v : BitVec w) (k : Nat) (x : Word) : BitVec w :=
  (v &&& ~~~((BitVec.allOnes 32).setWidth w <<< (32 * k))) ||| (x.setWidth w <<< (32 * k))

/-- A definedness vector with bit `k` set (10_state.md R37). -/
def setBit {w : Nat} (v : BitVec w) (k : Nat) : BitVec w :=
  v ||| (1#w <<< k)

/-- The `k` bytes of a value, most significant first: `bytes_be(v, k)` (00_scope.md R11, 44_identity_economics.md R188). -/
def bytesBe {w : Nat} (v : BitVec w) (k : Nat) : List Byte :=
  (List.range k).map fun j => v.extractLsb' (8 * (k - 1 - j)) 8

/-- The integer of a byte sequence, byte 0 most significant (00_scope.md R11). -/
def natOfBytesBe (bs : List Byte) : Nat :=
  bs.foldl (fun acc b => acc * 256 + b.toNat) 0

/-- The little-endian integer of a byte sequence, byte 0 least significant (44_identity_economics.md R182). -/
def natOfBytesLe : List Byte → Nat
  | [] => 0
  | b :: bs => b.toNat + 256 * natOfBytesLe bs

/-- The `k` bytes of a value, least significant first (44_identity_economics.md R186). -/
def bytesLe {w : Nat} (v : BitVec w) (k : Nat) : List Byte :=
  (List.range k).map fun j => v.extractLsb' (8 * j) 8

end Sys2Proof.Machine
end

