-- ==== Sys2Proof/Syntax.lean ====
section
/-! DEFINITION. What the core can be asked to do: its fourteen commands (30_encoding.md R81, R82), the three fields of a
command word (R80), and the events of its window (30_encoding.md R89, 70_reset_and_hazards.md R270). -/

namespace Sys2Proof

/-- The commands, one constructor per row of the opcode table, in its order. A command has no operand field
(30_encoding.md R80): its operands are fixed registers. -/
inductive Instr
  | ksched
  | enc
  | dec
  | feist
  | sbox
  | permIp
  | permFp
  | permE
  | permP
  | permPc1
  | permPc2
  | tokenid
  | mintp
  | burnr
  deriving DecidableEq, Repr

/-- The fields of a command word (30_encoding.md R80). -/
structure CommandFields where
  /-- bits [7:0] -/
  op : BitVec 8
  /-- bits [11:8] -/
  sel : BitVec 4
  /-- bits [31:12] -/
  res : BitVec 20
  deriving DecidableEq, Repr

/-- Why a command word is illegal: the four causes of 60_exceptions.md R244. DESIGN CHOICE, log 22: which is named where
several hold. -/
inductive Illegal
  /-- RES is not 0 -/
  | reservedBits
  /-- OP is 0x00 or 0x0A to 0xFF -/
  | reservedOpcode
  /-- SEL is not 0 on an OP other than 0x06 -/
  | selectorNotZero
  /-- SEL is 6 to 15 on PERM -/
  | reservedSelector
  deriving DecidableEq, Repr

/-- Encryption or decryption (43_block_cipher.md R165). -/
inductive Direction
  | enc
  | dec
  deriving DecidableEq, Repr

/-- One event at the boundary of the core: a host access to the window (20_memory.md R50, R57), or the platform's reset
(70_reset_and_hazards.md R270). `off` is the byte offset from CORE_BASE, `width` the access width in bytes. A write
carries one 32-bit value; where its width is not 4 it faults and the value is not looked at (DESIGN CHOICE, log 8 and 17). -/
inductive HostEvent
  | read (off width : Nat)
  | write (off width : Nat) (value : Word)
  | reset
  deriving DecidableEq, Repr

end Sys2Proof
end

