-- ==== Sys2Proof/Machine/State.lean ====
section
/-! DEFINITION. The state of one core instance (10_state.md R20) as plain data, the reasons a step can stop, and the state
right after reset. -/

namespace Sys2Proof.Machine

/-- The host-fault reasons (60_exceptions.md R250). A host fault is no stop of the model: it is a next state with the mark
FAULT set. Safe: the spec gives no misuse any other effect. -/
inductive HostFault
  /-- an access whose width is not 4 bytes -/
  | badWidth
  /-- an access at an offset that is not a multiple of 4 -/
  | misaligned
  /-- an access to an unmapped offset -/
  | unmapped
  /-- a write to STATUS, DOUT, HASH, PRICE or RK -/
  | roWrite
  /-- while BUSY: any write, or a read other than of STATUS or CMD -/
  | busyAccess
  /-- a read of a data word never written since reset -/
  | undefRead
  /-- an issue whose command reads an operand word never written since reset -/
  | undefOperand
  deriving DecidableEq, Repr

/-- The core errors a command can end with (60_exceptions.md R242). -/
inductive CoreError
  | illegalCmd
  | overflow
  | domain
  deriving DecidableEq, Repr

/-- STATUS (10_state.md R28). Its reserved bits are no storage: `Status.word` reads them as 0. -/
structure Status where
  busy : Bool
  done : Bool
  err : Bool
  ecode : BitVec 8
  deriving DecidableEq, Repr

/-- The operand registers with their definedness bits, bit n for word n (10_state.md R23 to R26, R37). The same data is the
snapshot a command takes at issue (R36). -/
structure Operands where
  key : BitVec 64
  din : BitVec 128
  date : BitVec 32
  supply : BitVec 256
  keyDef : BitVec 2
  dinDef : BitVec 4
  dateDef : BitVec 1
  supplyDef : BitVec 8
  deriving DecidableEq, Repr

/-- The command in flight: its word and the snapshot of the operands taken at issue (10_state.md R36). -/
structure Pending where
  word : Word
  snap : Operands
  deriving DecidableEq, Repr

/-- The values one command hands to its result registers (30_encoding.md R85, column results written). -/
inductive Result
  /-- KSCHED: the round-key file -/
  | schedule (rk : Vector Subkey 16)
  /-- ENC, DEC: the round-key file and DOUT -/
  | cipher (rk : Vector Subkey 16) (dout : BitVec 128)
  /-- FEIST, SBOX, PERM: DOUT -/
  | data (dout : BitVec 128)
  /-- TOKENID: HASH -/
  | digest (hash : BitVec 256)
  /-- MINTP, BURNR: PRICE -/
  | price (price : BitVec 256)
  deriving DecidableEq, Repr

/-- A word of the operand registers (20_memory.md R52, 30_encoding.md R85). -/
inductive OperandWord
  | key (n : Fin 2)
  | din (n : Fin 4)
  | date
  | supply (n : Fin 8)
  deriving DecidableEq, Repr

/-- A word of the register window (20_memory.md R52). -/
inductive WindowWord
  | cmd
  | status
  | operand (u : OperandWord)
  | dout (n : Fin 4)
  | hash (n : Fin 8)
  | price (n : Fin 8)
  /-- RK[i] word 0 -/
  | rkLow (i : Fin 16)
  /-- RK[i] word 1 -/
  | rkHigh (i : Fin 16)
  deriving DecidableEq, Repr

/-- The state of one core instance (10_state.md R20), and after it four fields of the model's own. -/
structure State where
  /-- KEY, DIN, DATE, SUPPLY and their definedness bits -/
  ops : Operands
  /-- CMD (R27) -/
  cmd : Word
  /-- STATUS (R28) -/
  status : Status
  /-- DOUT (R32) -/
  dout : BitVec 128
  /-- HASH (R33) -/
  hash : BitVec 256
  /-- PRICE (R34) -/
  price : BitVec 256
  /-- RK[0..15] (R35) -/
  rk : Vector Subkey 16
  /-- definedness bits of DOUT, HASH, PRICE, and of RK with bit 2i for RK[i] word 0 and 2i+1 for its word 1 (R37) -/
  doutDef : BitVec 4
  hashDef : BitVec 8
  priceDef : BitVec 8
  rkDef : BitVec 32
  /-- PENDING (R36) -/
  pending : Option Pending
  /-- FAULT (R38) -/
  fault : Option HostFault
  /-- the model's own: the events still to come, next first (20_memory.md R63: a single sequence of window events) -/
  events : List HostEvent
  /-- the model's own: the words the host's reads have returned, newest first (20_memory.md R59) -/
  returned : List Word
  /-- the model's own: host steps still to come before the command in flight completes (60_exceptions.md R243) -/
  wait : Nat
  /-- the model's own: how many commands have been issued, the argument of `Config.latency` -/
  issues : Nat
  deriving DecidableEq, Repr

/-- The reasons a step can stop with a fault. -/
inductive Fault
  /-- Raised by the fourteen meanings when no command is in flight: a completion is enabled exactly when PENDING is set
  (60_exceptions.md R243). `step` never asks for one then, so no run stops so. Safe: the machine has no such step. -/
  | noCommandInFlight
  deriving DecidableEq, Repr

/-- The reasons a step can be refused. -/
inductive Refusal
  /-- An instruction with no meaning yet. No arm of exec answers with it: every command is modelled. Safe. -/
  | notModelled (mnemonic : String)
  deriving DecidableEq, Repr

/-- The operand registers right after reset: every definedness bit clear (10_state.md R37, R40). DESIGN CHOICE, log 1: the
spec gives the values none; the zeros here stand behind cleared bits, where no access and no command reads them. -/
def Operands.reset : Operands where
  key := 0
  din := 0
  date := 0
  supply := 0
  keyDef := 0
  dinDef := 0
  dateDef := 0
  supplyDef := 0

/-- The state at the start of the model, right after reset (10_state.md R40): idle, nothing defined, no fault. DESIGN
CHOICE, log 1, for the zeros of the undefined result registers, and log 2 and 3 for the model's own fields. -/
def State.reset : State where
  ops := Operands.reset
  cmd := 0
  status := ⟨false, false, false, 0⟩
  dout := 0
  hash := 0
  price := 0
  rk := ⟨#[0, 0, 0, 0, 0, 0, 0, 0, 0, 0, 0, 0, 0, 0, 0, 0], rfl⟩
  doutDef := 0
  hashDef := 0
  priceDef := 0
  rkDef := 0
  pending := none
  fault := none
  events := []
  returned := []
  wait := 0
  issues := 0

end Sys2Proof.Machine
end

