-- ==== Sys2Proof/Machine/Flags.lean ====
section
/-! DEFINITION. The STATUS register: its word, and its changes at issue, completion and error (10_state.md R28 to R31,
60_exceptions.md R240 to R243). -/

namespace Sys2Proof.Machine

/-- The 32 bits a host reads from STATUS; the reserved bits [7:3] and [31:16] read 0 (10_state.md R28). -/
def Status.word (st : Status) : Word :=
  (0 : BitVec 16) ++ st.ecode ++ (0 : BitVec 5) ++ BitVec.ofBool st.err ++ BitVec.ofBool st.done ++ BitVec.ofBool st.busy

/-- The legal values: at most one of BUSY, DONE, ERR is 1, and ECODE is not 0 exactly when ERR is 1 (10_state.md R28). -/
def Status.legal (st : Status) : Bool :=
  !(st.busy && st.done) && !(st.busy && st.err) && !(st.done && st.err) && (st.err == (st.ecode != 0))

/-- ECODE of a core error (60_exceptions.md R242). -/
def CoreError.code : CoreError → BitVec 8
  | .illegalCmd => 0x01
  | .overflow => 0x02
  | .domain => 0x03

/-- Issue: DONE, ERR, ECODE cleared, BUSY set (60_exceptions.md R240). -/
def Status.atIssue (st : Status) : Status :=
  { st with busy := true, done := false, err := false, ecode := 0 }

/-- Completion without error: DONE set, ERR, ECODE, BUSY cleared (60_exceptions.md R243, and each command's Status). -/
def Status.atDone (st : Status) : Status :=
  { st with busy := false, done := true, err := false, ecode := 0 }

/-- Completion with a core error: ERR set, ECODE its code, BUSY cleared (60_exceptions.md R243). -/
def Status.atError (st : Status) (e : CoreError) : Status :=
  { st with busy := false, err := true, ecode := e.code }

end Sys2Proof.Machine
end

