-- ==== Sys2Proof/Machine/Ops.lean ====
section
/-! DEFINITION. The named operations over the state: operand words, result registers, the completion of a command, the core
error and the host fault (the only exceptions of this machine), and reset. -/

namespace Sys2Proof.Machine

/-- The value of an operand word (20_memory.md R51, R52). -/
def Operands.word (o : Operands) : OperandWord → Word
  | .key n => getWord o.key n.val
  | .din n => getWord o.din n.val
  | .date => o.date
  | .supply n => getWord o.supply n.val

/-- The definedness bit of an operand word (10_state.md R37). -/
def Operands.defined (o : Operands) : OperandWord → Bool
  | .key n => o.keyDef.getLsbD n.val
  | .din n => o.dinDef.getLsbD n.val
  | .date => o.dateDef.getLsbD 0
  | .supply n => o.supplyDef.getLsbD n.val

/-- Set the definedness bit of an operand word (10_state.md R37). -/
def Operands.markDefined (o : Operands) : OperandWord → Operands
  | .key n => { o with keyDef := setBit o.keyDef n.val }
  | .din n => { o with dinDef := setBit o.dinDef n.val }
  | .date => { o with dateDef := setBit o.dateDef 0 }
  | .supply n => { o with supplyDef := setBit o.supplyDef n.val }

/-- A host write of an operand word: the word and its definedness bit (20_memory.md R60, 10_state.md R37). -/
def Operands.write (o : Operands) (u : OperandWord) (x : Word) : Operands :=
  match u with
  | .key n => { o with key := setWord o.key n.val x, keyDef := setBit o.keyDef n.val }
  | .din n => { o with din := setWord o.din n.val x, dinDef := setBit o.dinDef n.val }
  | .date => { o with date := x, dateDef := setBit o.dateDef 0 }
  | .supply n => { o with supply := setWord o.supply n.val x, supplyDef := setBit o.supplyDef n.val }

/-- Write a result to its registers and mark all their words defined (60_exceptions.md R243, 10_state.md R37). -/
def State.writeResult (s : State) : Result → State
  | .schedule rk => { s with rk := rk, rkDef := BitVec.allOnes 32 }
  | .cipher rk d => { s with rk := rk, rkDef := BitVec.allOnes 32, dout := d, doutDef := BitVec.allOnes 4 }
  | .data d => { s with dout := d, doutDef := BitVec.allOnes 4 }
  | .digest h => { s with hash := h, hashDef := BitVec.allOnes 8 }
  | .price p => { s with price := p, priceDef := BitVec.allOnes 8 }

/-- The end of a command without error (60_exceptions.md R243). -/
def State.finishDone (s : State) : State :=
  { s with status := s.status.atDone, pending := none, wait := 0 }

/-- TAKING AN EXCEPTION, the core's kind: `raise CoreError(e)` ends the command; nothing is saved and control goes nowhere
(60_exceptions.md R241, R243, R248). There is no return: the next issue or reset clears the report (R249). -/
def State.raiseCoreError (s : State) (e : CoreError) : State :=
  { s with status := s.status.atError e, pending := none, wait := 0 }

/-- TAKING AN EXCEPTION, the host's kind: `raise HostFault(r)` sets FAULT and makes no other change (60_exceptions.md
R250). It is never cleared (10_state.md R38). -/
def State.raiseHostFault (s : State) (r : HostFault) : State :=
  { s with fault := some r }

/-- The end of a command: its results and DONE, or its error and no result (60_exceptions.md R241, R243). -/
def State.finish (s : State) : Except CoreError Result → State
  | .ok r => (s.writeResult r).finishDone
  | .error e => s.raiseCoreError e

/-- The completion of a command whose rule is `f`, run on the snapshot taken at issue and on nothing else (60_exceptions.md
R243, 10_state.md R22). Enabled exactly when a command is in flight; else DESIGN CHOICE, log 6. DEDUCED, log 15: nothing is
checked again here. -/
def runCommand (f : Operands → Except CoreError Result) (s : State) : Host.Outcome State Fault Refusal :=
  match s.pending with
  | some p => .next (s.finish (f p.snap))
  | none => .fault .noCommandInFlight

/-- The completion of a command whose word is illegal (60_exceptions.md R244). -/
def State.finishIllegal (s : State) : State :=
  s.raiseCoreError .illegalCmd

/-- The event Reset: every piece of state to its reset value, a command in flight abandoned (70_reset_and_hazards.md R270);
FAULT is kept (R271). DESIGN CHOICE, log 16: the model's own lists and the issue count go on. -/
def State.coreReset (s : State) : State :=
  { State.reset with fault := s.fault, events := s.events, returned := s.returned, issues := s.issues }

end Sys2Proof.Machine
end

