-- ==== Sys2Proof/Machine/Operands.lean ====
section
/-! DEFINITION. How each command takes its operands from the operand registers, and which operand words it reads
(30_encoding.md R85, R86). -/

namespace Sys2Proof.Machine

/-- FEIST's half-block `R`, `DIN[31:0]` (30_encoding.md R86). -/
def feistHalf (o : Operands) : Half :=
  o.din.extractLsb' 0 32

/-- FEIST's subkey `K`, `DIN[79:32]` (30_encoding.md R86). -/
def feistSubkey (o : Operands) : Subkey :=
  o.din.extractLsb' 32 48

/-- SBOX's input, `DIN[47:0]` (30_encoding.md R86). -/
def sboxInput (o : Operands) : BitVec 48 :=
  o.din.extractLsb' 0 48

/-- The `n`-bit input of a PERM command, `DIN[n-1:0]` (30_encoding.md R86). -/
def permInput (n : Nat) (o : Operands) : BitVec n :=
  o.din.extractLsb' 0 n

/-- The words of KEY. -/
def keyWords : List OperandWord :=
  [.key 0, .key 1]

/-- The first `n` words of DIN. -/
def dinWords (n : Nat) : List OperandWord :=
  [OperandWord.din 0, .din 1, .din 2, .din 3].take n

/-- The words of SUPPLY. -/
def supplyWords : List OperandWord :=
  [.supply 0, .supply 1, .supply 2, .supply 3, .supply 4, .supply 5, .supply 6, .supply 7]

/-- The operand words a command reads, whose definedness is checked at issue (30_encoding.md R85, column words read). -/
def operandWords : Instr → List OperandWord
  | .ksched => keyWords
  | .enc => keyWords ++ dinWords 4
  | .dec => keyWords ++ dinWords 4
  | .feist => dinWords 3
  | .sbox => dinWords 2
  | .permIp => dinWords 2
  | .permFp => dinWords 2
  | .permE => dinWords 1
  | .permP => dinWords 1
  | .permPc1 => dinWords 2
  | .permPc2 => dinWords 2
  | .tokenid => .date :: dinWords 4
  | .mintp => supplyWords
  | .burnr => supplyWords

/-- Every operand word of a command is defined (60_exceptions.md R252). -/
def operandsDefined (i : Instr) (o : Operands) : Bool :=
  (operandWords i).all o.defined

end Sys2Proof.Machine
end

