-- ==== Sys2Proof/Machine/Feistel.lean ====
section
/-! DEFINITION. The S-box layer, the round function, FEIST and SBOX (42_feistel.md). -/

namespace Sys2Proof.Machine

/-- Row of a 6-bit group: first bit the high bit, last bit the low bit (42_feistel.md R145). -/
def sboxRow (g : BitVec 6) : Nat :=
  (g.extractLsb' 5 1 ++ g.extractLsb' 0 1).toNat

/-- Column of a 6-bit group: its four middle bits (42_feistel.md R145). -/
def sboxCol (g : BitVec 6) : Nat :=
  (g.extractLsb' 1 4).toNat

/-- `S[row][col]` for the row and column of `g` (42_feistel.md R143, R145). -/
def sboxEntry (box : List Nat) (g : BitVec 6) : BitVec 4 :=
  BitVec.ofNat 4 (box.getD (16 * sboxRow g + sboxCol g) 0)

/-- Group `i`, 1 to 8, of a 48-bit value: bits [53-6i : 48-6i] (42_feistel.md R144). -/
def sboxGroup (x : BitVec 48) (i : Nat) : BitVec 6 :=
  x.extractLsb' (48 - 6 * i) 6

/-- Output nibble `i`, 1 to 8, of the S-box layer (42_feistel.md R146). -/
def sboxNibble (x : BitVec 48) (i : Nat) : BitVec 4 :=
  sboxEntry (sboxes.getD (i - 1) []) (sboxGroup x i)

/-- `SBoxLayer(X)`: the nibbles o_1 to o_8, o_1 most significant (42_feistel.md R146). -/
def sBoxLayer (x : BitVec 48) : BitVec 32 :=
  sboxNibble x 1 ++ sboxNibble x 2 ++ sboxNibble x 3 ++ sboxNibble x 4 ++
    sboxNibble x 5 ++ sboxNibble x 6 ++ sboxNibble x 7 ++ sboxNibble x 8

/-- The round function `f(R, K)` (42_feistel.md R147). -/
def feistelF (r : Half) (k : Subkey) : Half :=
  permute 32 tableP (sBoxLayer (permute 48 tableE r ^^^ k))

/-- What FEIST computes from the operands (42_feistel.md R148). -/
def feistResult (o : Operands) : Except CoreError Result :=
  .ok (.data ((feistelF (feistHalf o) (feistSubkey o)).setWidth 128))

/-- What SBOX computes from the operands (42_feistel.md R149). -/
def sboxResult (o : Operands) : Except CoreError Result :=
  .ok (.data ((sBoxLayer (sboxInput o)).setWidth 128))

/-- FEIST (42_feistel.md R148). -/
def execFeist (s : State) : Host.Outcome State Fault Refusal :=
  runCommand feistResult s

/-- SBOX (42_feistel.md R149). -/
def execSbox (s : State) : Host.Outcome State Fault Refusal :=
  runCommand sboxResult s

end Sys2Proof.Machine
end

