-- ==== Sys2Proof/Machine/KeySchedule.lean ====
section
/-! DEFINITION. The key schedule engine and KSCHED (41_key_schedule.md). -/

namespace Sys2Proof.Machine

/-- The halves C and D straight after PC-1 (41_key_schedule.md R123). -/
def keyHalves (key : BitVec 64) : BitVec 28 × BitVec 28 :=
  let cd := permute 56 tablePC1 key
  (cd.extractLsb' 28 28, cd.extractLsb' 0 28)

/-- The halves after one round's rotation (41_key_schedule.md R122). -/
def rotateHalves (cd : BitVec 28 × BitVec 28) (n : Nat) : BitVec 28 × BitVec 28 :=
  (rotl cd.1 n, rotl cd.2 n)

/-- The subkey of a round, from the halves of that round (41_key_schedule.md R123). -/
def subkeyOf (cd : BitVec 28 × BitVec 28) : Subkey :=
  permute 48 tablePC2 (cd.1 ++ cd.2)

/-- The subkeys of the rounds whose shifts are listed; the rotations accumulate (41_key_schedule.md R122, R123). -/
def subkeysFrom (cd : BitVec 28 × BitVec 28) : List Nat → List Subkey
  | [] => []
  | n :: ns => subkeyOf (rotateHalves cd n) :: subkeysFrom (rotateHalves cd n) ns

/-- One subkey for each shift. -/
theorem subkeysFrom_length (cd : BitVec 28 × BitVec 28) (ns : List Nat) :
    (subkeysFrom cd ns).length = ns.length := by
  induction ns generalizing cd with
  | nil => rfl
  | cons n ns ih => simp [subkeysFrom, ih]

/-- `KeySchedule(K)`: entry i is the subkey of encryption round i+1 (41_key_schedule.md R123). -/
def keySchedule (key : BitVec 64) : Vector Subkey 16 :=
  ⟨(subkeysFrom (keyHalves key) shifts).toArray, subkeysFrom_length (keyHalves key) shifts⟩

/-- What KSCHED computes from the operands (41_key_schedule.md R126). -/
def kschedResult (o : Operands) : Except CoreError Result :=
  .ok (.schedule (keySchedule o.key))

/-- KSCHED (41_key_schedule.md R126). -/
def execKsched (s : State) : Host.Outcome State Fault Refusal :=
  runCommand kschedResult s

end Sys2Proof.Machine
end

