-- ==== Sys2Proof/Machine/BlockCipher.lean ====
section
/-! DEFINITION. The block cipher, ENC and DEC (43_block_cipher.md). -/

namespace Sys2Proof.Machine

/-- The subkeys in the order the rounds use them: 0..15 to encrypt, 15..0 to decrypt (41_key_schedule.md R124,
43_block_cipher.md R165). -/
def roundKeys (dir : Direction) (sk : Vector Subkey 16) : List Subkey :=
  match dir with
  | .enc => sk.toList
  | .dec => sk.toList.reverse

/-- One round: new left = old right, new right = old left XOR f(old right, k) (43_block_cipher.md R163). -/
def feistelRound (lr : Half × Half) (k : Subkey) : Half × Half :=
  (lr.2, lr.1 ^^^ feistelF lr.2 k)

/-- The rounds, one for each subkey listed (43_block_cipher.md R165). -/
def feistelRounds (lr : Half × Half) (ks : List Subkey) : Half × Half :=
  ks.foldl feistelRound lr

/-- The halves after the Initial Permutation (43_block_cipher.md R162). -/
def initialSplit (b : Block) : Half × Half :=
  let x := permute 64 tableIP b
  (x.extractLsb' 32 32, x.extractLsb' 0 32)

/-- The output block: right, left, then the Inverse Permutation (43_block_cipher.md R164). -/
def finalJoin (lr : Half × Half) : Block :=
  permute 64 tableFP (lr.2 ++ lr.1)

/-- `DESBlock(b, SK, dir)` (43_block_cipher.md R165). -/
def desBlock (b : Block) (sk : Vector Subkey 16) (dir : Direction) : Block :=
  finalJoin (feistelRounds (initialSplit b) (roundKeys dir sk))

/-- ECB over the two blocks of a payload, block 0 in its high half (43_block_cipher.md R166 to R168). -/
def desEcb (payload : BitVec 128) (sk : Vector Subkey 16) (dir : Direction) : BitVec 128 :=
  desBlock (payload.extractLsb' 64 64) sk dir ++ desBlock (payload.extractLsb' 0 64) sk dir

/-- What ENC computes from the operands (43_block_cipher.md R166). -/
def encResult (o : Operands) : Except CoreError Result :=
  .ok (.cipher (keySchedule o.key) (desEcb o.din (keySchedule o.key) .enc))

/-- What DEC computes from the operands; RK gets the encryption order (43_block_cipher.md R167, 10_state.md R35). -/
def decResult (o : Operands) : Except CoreError Result :=
  .ok (.cipher (keySchedule o.key) (desEcb o.din (keySchedule o.key) .dec))

/-- ENC (43_block_cipher.md R166). -/
def execEnc (s : State) : Host.Outcome State Fault Refusal :=
  runCommand encResult s

/-- DEC (43_block_cipher.md R167). -/
def execDec (s : State) : Host.Outcome State Fault Refusal :=
  runCommand decResult s

end Sys2Proof.Machine
end

