-- ==== Sys2Proof/Machine/Economics.lean ====
section
/-! DEFINITION. The bonding-curve multiplier: MINTP and BURNR (44_identity_economics.md R190 to R194), and the TokenStatus
constants (R195). UNVERIFIED, log 18: the price constants. -/

namespace Sys2Proof.Machine

/-- `BASE`, 0.01 unit in wei (44_identity_economics.md R190). -/
def basePrice : Nat := 10 ^ 16

/-- `COEFF`, 0.001 unit in wei (44_identity_economics.md R190). -/
def coefficient : Nat := 10 ^ 15

/-- The reward ratio's numerator (44_identity_economics.md R190). -/
def rewardNumerator : Nat := 9950

/-- The reward ratio's denominator (44_identity_economics.md R190). -/
def rewardDenominator : Nat := 10000

/-- `MAXP`, the largest price (44_identity_economics.md R190). -/
def maxPrice : Nat := 2 ^ 256 - 1

/-- The largest supply MINTP has a price for (44_identity_economics.md R191). -/
def nMintMax : Nat := 115792089237316195423570985008687907853269984665640564039457574

/-- The largest supply BURNR has a reward for (44_identity_economics.md R193). -/
def nBurnMax : Nat := 11637395903247858836539797488310342497816078860868398395916

/-- A computed value, or OVERFLOW where it exceeds MAXP: never reduced modulo 2^256 (44_identity_economics.md R192). -/
def checked (p : Nat) : Except CoreError Nat :=
  if p > maxPrice then .error .overflow else .ok p

/-- The mint price at supply `n`, on unbounded naturals, each value checked (44_identity_economics.md R191, R192). -/
def mintPrice (n : Nat) : Except CoreError Nat := do
  let m ← checked (coefficient * n)
  checked (basePrice + m)

/-- The burn reward at supply `n`: DOMAIN at 0, then multiply, check, divide (44_identity_economics.md R193, R192). -/
def burnReward (n : Nat) : Except CoreError Nat :=
  if n = 0 then .error .domain
  else do
    let m ← mintPrice (n - 1)
    let q ← checked (m * rewardNumerator)
    .ok (q / rewardDenominator)

/-- A price as a result (10_state.md R34). -/
def priceResult (p : Except CoreError Nat) : Except CoreError Result :=
  p.map fun n => .price (BitVec.ofNat 256 n)

/-- What MINTP computes from the operands (44_identity_economics.md R191). -/
def mintpResult (o : Operands) : Except CoreError Result :=
  priceResult (mintPrice o.supply.toNat)

/-- What BURNR computes from the operands (44_identity_economics.md R193). -/
def burnrResult (o : Operands) : Except CoreError Result :=
  priceResult (burnReward o.supply.toNat)

/-- MINTP (44_identity_economics.md R191). -/
def execMintp (s : State) : Host.Outcome State Fault Refusal :=
  runCommand mintpResult s

/-- BURNR (44_identity_economics.md R193). -/
def execBurnr (s : State) : Host.Outcome State Fault Refusal :=
  runCommand burnrResult s

/-- The TokenStatus enum, a constant for host software: the core holds none (44_identity_economics.md R195). -/
inductive TokenStatus
  | forSale
  | minted
  | burned
  deriving DecidableEq, Repr

/-- Its encoding, in declaration order (44_identity_economics.md R195). -/
def tokenStatusCode : TokenStatus → Nat
  | .forSale => 0
  | .minted => 1
  | .burned => 2

/-- The legal transitions, which the ledger enforces (44_identity_economics.md R195). -/
def tokenStatusMayBecome : TokenStatus → TokenStatus → Bool
  | .forSale, .minted => true
  | .minted, .burned => true
  | _, _ => false

end Sys2Proof.Machine
end

