-- ==== Sys2Proof/Machine/Keccak.lean ====
section
/-! DEFINITION. Keccak-256 and TOKENID (44_identity_economics.md R180 to R188). The spec takes the hash from general
knowledge (93_implementation_defined.md G6): PRESUMED, log 9. -/

namespace Sys2Proof.Machine

/-- The lane index of column `x` and row `y`, both modulo 5 (44_identity_economics.md R182, R183). -/
def laneIndex (x y : Nat) : Nat :=
  x % 5 + 5 * (y % 5)

/-- Lane `A[x][y]`, indexes modulo 5 (44_identity_economics.md R182, R183). -/
def lane (a : List Lane) (x y : Nat) : Lane :=
  a.getD (laneIndex x y) 0

/-- The state whose lane `A[x][y]` is `f x y`, in the order of the lane index (44_identity_economics.md R182). -/
def lanesOf (f : Nat → Nat → Lane) : List Lane :=
  (List.range 25).map fun i => f (i % 5) (i / 5)

/-- The column parity `C[x]` of step θ (44_identity_economics.md R183). -/
def columnParity (a : List Lane) (x : Nat) : Lane :=
  lane a x 0 ^^^ lane a x 1 ^^^ lane a x 2 ^^^ lane a x 3 ^^^ lane a x 4

/-- The five column parities, then `D[x] = C[x-1] XOR rot(C[x+1], 1)` from them (44_identity_economics.md R183). -/
def thetaD (c : List Lane) (x : Nat) : Lane :=
  c.getD ((x + 4) % 5) 0 ^^^ rotl (c.getD ((x + 1) % 5) 0) 1

/-- Step θ (44_identity_economics.md R183). -/
def theta (a : List Lane) : List Lane :=
  let c := (List.range 5).map (columnParity a)
  let d := (List.range 5).map (thetaD c)
  lanesOf fun x y => lane a x y ^^^ d.getD x 0

/-- Steps ρ and π: `B[y][2x+3y] = rot(A[x][y], ROT[x][y])`. Lane `B[u][v]` comes from `y = u` and the `x` with
`2x + 3y = v`, that is `x = u + 3v` modulo 5 (44_identity_economics.md R183, R184). -/
def rhoPi (a : List Lane) : List Lane :=
  lanesOf fun u v => rotl (lane a (u + 3 * v) u) (rotationOffset (u + 3 * v) u)

/-- Step χ (44_identity_economics.md R183). -/
def chi (b : List Lane) : List Lane :=
  lanesOf fun x y => lane b x y ^^^ (~~~(lane b (x + 1) y) &&& lane b (x + 2) y)

/-- Step ι: the round constant into lane `A[0][0]` (44_identity_economics.md R183, R185). -/
def iota (rc : Lane) (a : List Lane) : List Lane :=
  match a with
  | [] => []
  | a00 :: rest => (a00 ^^^ rc) :: rest

/-- One round: θ, ρ, π, χ, ι in that order (44_identity_economics.md R183). -/
def keccakRound (a : List Lane) (rc : Lane) : List Lane :=
  iota rc (chi (rhoPi (theta a)))

/-- `KeccakF1600`: rounds `ir = 0` to `23` (44_identity_economics.md R183). -/
def keccakF (a : List Lane) : List Lane :=
  (List.range 24).foldl (fun b ir => keccakRound b (roundConstant ir)) a

/-- The padding of a message of `len` bytes, fewer than 136 (44_identity_economics.md R181). -/
def keccakPad (len : Nat) : List Byte :=
  if len = 135 then [0x81] else 0x01 :: (List.replicate (134 - len) 0x00 ++ [0x80])

/-- The bytes of a block as lanes: lane i is the little-endian integer of bytes 8i to 8i+7; the capacity lanes 17 to 24
get nothing (44_identity_economics.md R182). Absorbing XORs these into the all-zero state, so they are the state. -/
def lanesOfBlock (blk : List Byte) : List Lane :=
  (List.range 25).map fun i => BitVec.ofNat 64 (natOfBytesLe ((blk.drop (8 * i)).take 8))

/-- The first 32 bytes of the state: lanes 0 to 3, little-endian (44_identity_economics.md R186). -/
def squeeze (a : List Lane) : List Byte :=
  (a.take 4).flatMap fun l => bytesLe l 8

/-- `Keccak256(msg)` for a message of fewer than 136 bytes, which covers every input of the core: one block absorbed, one
squeeze (44_identity_economics.md R180). DESIGN CHOICE, log 20, for longer ones. -/
def keccak256 (msg : List Byte) : List Byte :=
  squeeze (keccakF (lanesOfBlock (msg ++ keccakPad msg.length)))

/-- The 20 message bytes of a descriptor: DATE then ciphertext, both big-endian (44_identity_economics.md R188). -/
def tokenMessage (date : BitVec 32) (ciphertext : BitVec 128) : List Byte :=
  bytesBe date 4 ++ bytesBe ciphertext 16

/-- The TokenId: the digest read big-endian (44_identity_economics.md R187, R188). -/
def tokenIdOf (date : BitVec 32) (ciphertext : BitVec 128) : BitVec 256 :=
  BitVec.ofNat 256 (natOfBytesBe (keccak256 (tokenMessage date ciphertext)))

/-- What TOKENID computes from the operands (44_identity_economics.md R188). -/
def tokenidResult (o : Operands) : Except CoreError Result :=
  .ok (.digest (tokenIdOf o.date o.din))

/-- TOKENID (44_identity_economics.md R188). -/
def execTokenid (s : State) : Host.Outcome State Fault Refusal :=
  runCommand tokenidResult s

end Sys2Proof.Machine
end

