-- ==== Sys2Proof/Machine/Permutation.lean ====
section
/-! DEFINITION. The six PERM commands (40_bitvector.md R106, 30_encoding.md R82). -/

namespace Sys2Proof.Machine

/-- What a PERM command computes: the table, of `m` entries, applied to `DIN[n-1:0]`, zero-extended (40_bitvector.md
R106). -/
def permResult (n m : Nat) (t : List Nat) (o : Operands) : Except CoreError Result :=
  .ok (.data ((permute m t (permInput n o)).setWidth 128))

/-- PERM.IP, 64 to 64 (40_bitvector.md R106). -/
def execPermIp (s : State) : Host.Outcome State Fault Refusal :=
  runCommand (permResult 64 64 tableIP) s

/-- PERM.FP, 64 to 64 (40_bitvector.md R106). -/
def execPermFp (s : State) : Host.Outcome State Fault Refusal :=
  runCommand (permResult 64 64 tableFP) s

/-- PERM.E, 32 to 48 (40_bitvector.md R106). -/
def execPermE (s : State) : Host.Outcome State Fault Refusal :=
  runCommand (permResult 32 48 tableE) s

/-- PERM.P, 32 to 32 (40_bitvector.md R106). -/
def execPermP (s : State) : Host.Outcome State Fault Refusal :=
  runCommand (permResult 32 32 tableP) s

/-- PERM.PC1, 64 to 56 (40_bitvector.md R106). -/
def execPermPc1 (s : State) : Host.Outcome State Fault Refusal :=
  runCommand (permResult 64 56 tablePC1) s

/-- PERM.PC2, 56 to 48 (40_bitvector.md R106). -/
def execPermPc2 (s : State) : Host.Outcome State Fault Refusal :=
  runCommand (permResult 56 48 tablePC2) s

end Sys2Proof.Machine
end

