-- ==== Sys2Proof/Machine/Dispatch.lean ====
section
/-! DEFINITION. The dispatch: one meaning for each command. -/

namespace Sys2Proof.Machine

def exec (i : Instr) (s : State) : Host.Outcome State Fault Refusal :=
  match i with
  | .ksched => Sys2Proof.Machine.execKsched s
  | .enc => Sys2Proof.Machine.execEnc s
  | .dec => Sys2Proof.Machine.execDec s
  | .feist => Sys2Proof.Machine.execFeist s
  | .sbox => Sys2Proof.Machine.execSbox s
  | .permIp => Sys2Proof.Machine.execPermIp s
  | .permFp => Sys2Proof.Machine.execPermFp s
  | .permE => Sys2Proof.Machine.execPermE s
  | .permP => Sys2Proof.Machine.execPermP s
  | .permPc1 => Sys2Proof.Machine.execPermPc1 s
  | .permPc2 => Sys2Proof.Machine.execPermPc2 s
  | .tokenid => Sys2Proof.Machine.execTokenid s
  | .mintp => Sys2Proof.Machine.execMintp s
  | .burnr => Sys2Proof.Machine.execBurnr s

end Sys2Proof.Machine
end

