-- ==== Sys2Proof/Config.lean ====
section
/-! DEFINITION. What the spec leaves open (00_scope.md R8): parameters of the platform and free values. Each is a constant
with no body, so that nothing can be proved of its value. -/

namespace Sys2Proof

/-- CORE_BASE of each instance, divided by 0x200 (92_eei_decisions.md D2, D32). A permutation of the naturals: every choice
of different bases for the instances of a platform is one, and no two instances get one window (20_memory.md R68; log 8). -/
opaque Config.coreBaseIndex : Equiv.Perm Nat

/-- The base address of the window of instance `k`: OPEN, a multiple of 0x200 (20_memory.md R50, R68). -/
def Config.coreBase (k : Nat) : Nat := 0x200 * Config.coreBaseIndex k

/-- The size of the window in bytes (20_memory.md R50). -/
def Config.windowSize : Nat := 0x200

/-- FREE VALUE. LATENCY of the n-th command: how many host steps stand between its issue and its completion. OPEN, finite,
no bound (92_eei_decisions.md D19, 70_reset_and_hazards.md R290). -/
opaque Config.latency : Nat → Nat

/-- The number of instances beyond the first (92_eei_decisions.md D32). -/
opaque Config.moreInstances : Nat

/-- N_INSTANCES: OPEN, at least 1 (20_memory.md R68). -/
def Config.nInstances : Nat := Config.moreInstances + 1

/-- dateOfKey: OPEN, a host function from the key text to DATE (92_eei_decisions.md D29). The core never uses it. -/
opaque Config.dateOfKey : List Nat → BitVec 32

end Sys2Proof
end

