-- ==== Sys2Proof/WellFormed.lean ====
section
/-! DEFINITION. The checks on syntax: the fields of a legal command word (30_encoding.md R83), a permutation table
(40_bitvector.md R101), and a host access that is not a misuse by its form alone (20_memory.md R57, R58). -/

namespace Sys2Proof

/-- The fields of a legal command (30_encoding.md R83, as its two listed cases). -/
def CommandFields.wellFormed (f : CommandFields) : Bool :=
  f.res == 0 &&
    ((f.op == 0x06 && f.sel.toNat ≤ 5) ||
      (f.sel == 0 && ((1 ≤ f.op.toNat && f.op.toNat ≤ 5) || (7 ≤ f.op.toNat && f.op.toNat ≤ 9))))

/-- A table into an `n`-bit source is well formed when every entry is a DES position 1 to `n` (40_bitvector.md R101). -/
def tableWellFormed (n : Nat) (t : List Nat) : Bool :=
  t.all fun p => 1 ≤ p && p ≤ n

/-- The unmapped ranges of the window, first and last offset (20_memory.md R52, its closing list). -/
def unmappedRanges : List (Nat × Nat) :=
  [(0x008, 0x00F), (0x018, 0x01F), (0x034, 0x03F), (0x060, 0x07F), (0x090, 0x09F), (0x0E0, 0x0FF), (0x180, 0x1FF)]

/-- An offset inside the window that no unmapped range holds (20_memory.md R50, R52). -/
def mappedOffset (off : Nat) : Bool :=
  off < 0x200 && !unmappedRanges.any fun r => r.1 ≤ off && off ≤ r.2

/-- The offsets a host may write: CMD and the operand registers (20_memory.md R52, access RW). -/
def writableOffset (off : Nat) : Bool :=
  off < 0x004 || (0x010 ≤ off && off < 0x080)

/-- An event that the checks of 20_memory.md R57 and R58 let through, whatever the state. -/
def HostEvent.wellFormed : HostEvent → Bool
  | .read off width => width == 4 && off % 4 == 0 && mappedOffset off
  | .write off width _ => width == 4 && off % 4 == 0 && mappedOffset off && writableOffset off
  | .reset => true

end Sys2Proof
end

