-- ==== Sys2Proof/Decode.lean ====
section
/-! DEFINITION. Decoding and encoding of command words (30_encoding.md R80 to R84, R90). -/

namespace Sys2Proof

/-- The three fields of a word (30_encoding.md R80). -/
def CommandFields.ofWord (w : Word) : CommandFields where
  op := w.extractLsb' 0 8
  sel := w.extractLsb' 8 4
  res := w.extractLsb' 12 20

/-- The word of three fields (30_encoding.md R80). -/
def CommandFields.toWord (f : CommandFields) : Word :=
  f.res ++ f.sel ++ f.op

/-- The command of OP 0x06 by its selector (30_encoding.md R82). -/
def decodePerm (sel : Nat) : Except Illegal Instr :=
  match sel with
  | 0 => .ok .permIp
  | 1 => .ok .permFp
  | 2 => .ok .permE
  | 3 => .ok .permP
  | 4 => .ok .permPc1
  | 5 => .ok .permPc2
  | _ => .error .reservedSelector

/-- The command of an OP other than 0x06 (30_encoding.md R81). -/
def decodeOp (op : Nat) : Except Illegal Instr :=
  match op with
  | 1 => .ok .ksched
  | 2 => .ok .enc
  | 3 => .ok .dec
  | 4 => .ok .feist
  | 5 => .ok .sbox
  | 7 => .ok .tokenid
  | 8 => .ok .mintp
  | 9 => .ok .burnr
  | _ => .error .reservedOpcode

/-- Decode fields: RES first, then PERM by its selector, then the opcode, whose SEL must be 0 (30_encoding.md R83). -/
def decodeFields (f : CommandFields) : Except Illegal Instr :=
  if f.res ≠ 0 then .error .reservedBits
  else if f.op = 0x06 then decodePerm f.sel.toNat
  else match decodeOp f.op.toNat with
    | .error e => .error e
    | .ok i => if f.sel = 0 then .ok i else .error .selectorNotZero

/-- The decoder, total on all 2^32 words (30_encoding.md R83). -/
def decode (w : Word) : Except Illegal Instr :=
  decodeFields (CommandFields.ofWord w)

/-- The fields of each command (30_encoding.md R81, R82). -/
def Instr.fields : Instr → CommandFields
  | .ksched => ⟨0x01, 0, 0⟩
  | .enc => ⟨0x02, 0, 0⟩
  | .dec => ⟨0x03, 0, 0⟩
  | .feist => ⟨0x04, 0, 0⟩
  | .sbox => ⟨0x05, 0, 0⟩
  | .permIp => ⟨0x06, 0, 0⟩
  | .permFp => ⟨0x06, 1, 0⟩
  | .permE => ⟨0x06, 2, 0⟩
  | .permP => ⟨0x06, 3, 0⟩
  | .permPc1 => ⟨0x06, 4, 0⟩
  | .permPc2 => ⟨0x06, 5, 0⟩
  | .tokenid => ⟨0x07, 0, 0⟩
  | .mintp => ⟨0x08, 0, 0⟩
  | .burnr => ⟨0x09, 0, 0⟩

/-- The encoder: the one word of a command (30_encoding.md R87, R90). -/
def encode (i : Instr) : Word :=
  i.fields.toWord

/-- A legal command word: its fields are well formed (30_encoding.md R83). -/
def legalWord (w : Word) : Bool :=
  (CommandFields.ofWord w).wellFormed

/-- The command word whose bits are the low `nbits` bits of `w`; its other bits are 0. -/
def tableWord (nbits w : Nat) : Nat :=
  w % 2 ^ nbits

/-- The instruction the decoder reads from the bits `w` of an opcode-table row: a command is one 32-bit word, written whole
to CMD (30_encoding.md R80, R87), so bit j of the row is bit j of the word. None where the decoder refuses, or where the
bits do not fit in one word. -/
def decodeTableWord (nbits w : Nat) : Option Instr :=
  if tableWord nbits w < 2 ^ 32 then (decode (BitVec.ofNat 32 (tableWord nbits w))).toOption else none

end Sys2Proof
end

