-- ==== Sys2Proof/Machine/Window.lean ====
section
/-! DEFINITION. The register window: its map, the access checks, host reads and writes, the issue of a command
(20_memory.md, 60_exceptions.md R240, R247, R250). -/

namespace Sys2Proof.Machine

/-- Element `(off - base) / 4` of a register of `n` words at `base`. -/
def wordIndex (n : Nat) [NeZero n] (base off : Nat) : Fin n :=
  Fin.ofNat n ((off - base) / 4)

/-- `word_of(off)`: the register word at an offset that is a multiple of 4, row by row (20_memory.md R52). DEDUCED, log 13:
an offset beyond the window is unmapped too. -/
def wordAt (off : Nat) : Option WindowWord :=
  if off = 0x000 then some .cmd
  else if off = 0x004 then some .status
  else if 0x010 ≤ off ∧ off < 0x018 then some (.operand (.key (wordIndex 2 0x010 off)))
  else if 0x020 ≤ off ∧ off < 0x030 then some (.operand (.din (wordIndex 4 0x020 off)))
  else if off = 0x030 then some (.operand .date)
  else if 0x040 ≤ off ∧ off < 0x060 then some (.operand (.supply (wordIndex 8 0x040 off)))
  else if 0x080 ≤ off ∧ off < 0x090 then some (.dout (wordIndex 4 0x080 off))
  else if 0x0A0 ≤ off ∧ off < 0x0C0 then some (.hash (wordIndex 8 0x0A0 off))
  else if 0x0C0 ≤ off ∧ off < 0x0E0 then some (.price (wordIndex 8 0x0C0 off))
  else if 0x100 ≤ off ∧ off < 0x180 then
    if off % 8 = 0 then some (.rkLow (Fin.ofNat 16 ((off - 0x100) / 8)))
    else some (.rkHigh (Fin.ofNat 16 ((off - 0x100) / 8)))
  else none

/-- The offset of a register word (20_memory.md R52). -/
def WindowWord.offset : WindowWord → Nat
  | .cmd => 0x000
  | .status => 0x004
  | .operand (.key n) => 0x010 + 4 * n.val
  | .operand (.din n) => 0x020 + 4 * n.val
  | .operand .date => 0x030
  | .operand (.supply n) => 0x040 + 4 * n.val
  | .dout n => 0x080 + 4 * n.val
  | .hash n => 0x0A0 + 4 * n.val
  | .price n => 0x0C0 + 4 * n.val
  | .rkLow i => 0x100 + 8 * i.val
  | .rkHigh i => 0x104 + 8 * i.val

/-- `check_access`: width, then alignment, then mapping (20_memory.md R57, 60_exceptions.md R247). -/
def checkAccess (off width : Nat) : Except HostFault WindowWord :=
  if width ≠ 4 then .error .badWidth
  else if off % 4 ≠ 0 then .error .misaligned
  else match wordAt off with
    | none => .error .unmapped
    | some x => .ok x

/-- A word the host may only read (20_memory.md R52, R58). -/
def WindowWord.readOnly : WindowWord → Bool
  | .cmd => false
  | .operand _ => false
  | .status | .dout _ | .hash _ | .price _ | .rkLow _ | .rkHigh _ => true

/-- A word the host may read while BUSY: STATUS and CMD (70_reset_and_hazards.md R280). -/
def WindowWord.readableBusy : WindowWord → Bool
  | .cmd | .status => true
  | .operand _ | .dout _ | .hash _ | .price _ | .rkLow _ | .rkHigh _ => false

/-- The 32 bits of a register word (20_memory.md R51 to R53). -/
def State.word (s : State) : WindowWord → Word
  | .cmd => s.cmd
  | .status => s.status.word
  | .operand u => s.ops.word u
  | .dout n => getWord s.dout n.val
  | .hash n => getWord s.hash n.val
  | .price n => getWord s.price n.val
  | .rkLow i => (s.rk[i.val]).extractLsb' 0 32
  | .rkHigh i => ((s.rk[i.val]).extractLsb' 32 16).setWidth 32

/-- A register word holds a value: CMD and STATUS always, a data word when its definedness bit is set (10_state.md R37). -/
def State.defined (s : State) : WindowWord → Bool
  | .cmd => true
  | .status => true
  | .operand u => s.ops.defined u
  | .dout n => s.doutDef.getLsbD n.val
  | .hash n => s.hashDef.getLsbD n.val
  | .price n => s.priceDef.getLsbD n.val
  | .rkLow i => s.rkDef.getLsbD (2 * i.val)
  | .rkHigh i => s.rkDef.getLsbD (2 * i.val + 1)

/-- The value a host read of an offset returns, or the host fault it raises; a read changes no state (20_memory.md R59,
60_exceptions.md R247). -/
def hostRead (off width : Nat) (s : State) : Except HostFault Word :=
  match checkAccess off width with
  | .error r => .error r
  | .ok x =>
    if s.status.busy ∧ ¬ x.readableBusy then .error .busyAccess
    else if ¬ s.defined x then .error .undefRead
    else .ok (s.word x)

/-- The state with command `w` in flight on a snapshot of the operands; how long it stays so is the free value
`Config.latency` (60_exceptions.md R240, 92_eei_decisions.md D19). -/
def State.launch (s : State) (w : Word) : State :=
  { s with
    status := s.status.atIssue
    pending := some ⟨w, s.ops⟩
    wait := Config.latency s.issues
    issues := s.issues + 1 }

/-- `Issue(w)`: UNDEF_OPERAND is checked before anything changes, and only for a legal word (60_exceptions.md R240, R252). -/
def State.issue (s : State) (w : Word) : Except HostFault State :=
  match decode w with
  | .ok i => if operandsDefined i s.ops then .ok (s.launch w) else .error .undefOperand
  | .error _ => .ok (s.launch w)

/-- The effect of a host write on a writable word that is not busy (20_memory.md R60). A write of CMD issues first and then
stores the word (90_conflicts.md C9). The read-only words are refused before this. -/
def State.writeWord (s : State) (x : WindowWord) (v : Word) : Except HostFault State :=
  match x with
  | .cmd =>
    match s.issue v with
    | .ok t => .ok { t with cmd := v }
    | .error r => .error r
  | .operand u => .ok { s with ops := s.ops.write u v }
  | .status | .dout _ | .hash _ | .price _ | .rkLow _ | .rkHigh _ => .error .roWrite

/-- The state a host write leaves, or the host fault it raises: access checks, RO_WRITE, BUSY_ACCESS, UNDEF_OPERAND, in
that order (20_memory.md R60, 60_exceptions.md R247). -/
def hostWrite (off width : Nat) (v : Word) (s : State) : Except HostFault State :=
  match checkAccess off width with
  | .error r => .error r
  | .ok x =>
    if x.readOnly then .error .roWrite
    else if s.status.busy then .error .busyAccess
    else s.writeWord x v

/-- The state after one event at the boundary: a faulting access sets FAULT and has no other effect (60_exceptions.md
R250); a read hands its value to the host; Reset resets the core. -/
def State.event (s : State) : HostEvent → State
  | .read off width =>
    match hostRead off width s with
    | .ok v => { s with returned := v :: s.returned }
    | .error r => s.raiseHostFault r
  | .write off width v =>
    match hostWrite off width v s with
    | .ok t => t
    | .error r => s.raiseHostFault r
  | .reset => s.coreReset

/-- The host's turn: take the next event, which is one host step of the command in flight, if there is one. With no event
to come the core is idle and every register keeps its value (60_exceptions.md R260). -/
def State.hostTurn (s : State) : State :=
  match s.events with
  | [] => s
  | e :: es => State.event { s with events := es, wait := s.wait - 1 } e

/-- The completion of the command in flight is the next step: its latency is over, or the host has no event left, so that
the completion step is the only one that can happen (60_exceptions.md R243, 70_reset_and_hazards.md R291). -/
def State.completes (s : State) : Bool :=
  s.pending.isSome && (s.wait == 0 || s.events.isEmpty)

/-- The address lies in the window of instance `k` (20_memory.md R50, R68). -/
def inWindow (k addr : Nat) : Bool :=
  Config.coreBase k ≤ addr && addr < Config.coreBase k + Config.windowSize

/-- A read of a host's byte address as an event of instance `k`: none outside its window (20_memory.md R50, R68). -/
def windowRead (k addr width : Nat) : Option HostEvent :=
  if inWindow k addr then some (.read (addr - Config.coreBase k) width) else none

/-- The same for a write (20_memory.md R50, R68). -/
def windowWrite (k addr width : Nat) (v : Word) : Option HostEvent :=
  if inWindow k addr then some (.write (addr - Config.coreBase k) width v) else none

end Sys2Proof.Machine
end

