-- ==== Sys2Proof/Machine/Complete.lean ====
section
/-! DEFINITION. The completion step of the command in flight (60_exceptions.md R243), and how a word is put in flight for the
next step to complete. -/

namespace Sys2Proof.Machine

/-- `Complete`: run the command the word decodes to, or end with ILLEGAL_CMD (60_exceptions.md R243, R244). -/
def State.complete (s : State) (p : Pending) : Host.Outcome State Fault Refusal :=
  match Sys2Proof.decode p.word with
  | .ok i => exec i s
  | .error _ => .next s.finishIllegal

/-- One step: the completion where it is the next step, else the host's turn (60_exceptions.md R243). -/
def State.advance (s : State) : Host.Outcome State Fault Refusal :=
  match s.pending with
  | some p => if s.completes then s.complete p else .next s.hostTurn
  | none => .next s.hostTurn

/-- The operand registers after the host has written each listed word with the value it holds: the words are defined, the
values unchanged (10_state.md R37, 70_reset_and_hazards.md R273). -/
def Operands.rewritten (o : Operands) (us : List OperandWord) : Operands :=
  us.foldl Operands.markDefined o

/-- `s` with word `w` in flight and no host step left before its completion: the state after the host has written the operand
words the command reads with the values they hold, and then `w` to CMD (log 7). -/
def State.inFlight (s : State) (w : Word) : State :=
  let o := match Sys2Proof.decode w with
    | .ok i => s.ops.rewritten (operandWords i)
    | .error _ => s.ops
  { State.launch { s with ops := o } w with cmd := w, wait := 0 }

end Sys2Proof.Machine
end

