-- ==== Sys2Proof/Machine/Step.lean ====
section
/-! DEFINITION. One step of the machine, and the placing of a command word for the next step. -/

namespace Sys2Proof.Machine

/-- One step: the completion of the command in flight, or one event of the host (60_exceptions.md R243, R260). -/
def step (s : State) : Host.Outcome State Fault Refusal :=
  s.advance

/-- `s` with the command word of these bits in flight, so that the very next step completes it: the core fetches nothing, a
command comes from the host's write to CMD (20_memory.md R67; log 7). -/
def State.withFetchWord (s : State) (nbits w : Nat) : State :=
  s.inFlight (BitVec.ofNat 32 (Sys2Proof.tableWord nbits w))

end Sys2Proof.Machine
end

