-- ==== Sys2Proof/Machine/HostCodec.lean ====
section
/-! DEFINITION. The host-side text codec and input validation (45_host_codec.md). It is no part of the hardware
(00_scope.md R5): pure functions between text and operand or result registers. A text is its list of Unicode code points. -/

namespace Sys2Proof.Machine

/-- The host-side errors (45_host_codec.md R219), and the two core errors a price procedure returns (R220). -/
inductive HostError
  | invalidKey
  | invalidPlaintext
  | invalidCiphertext
  | invalidEscape
  | arithmeticOverflow
  | domain
  deriving DecidableEq, Repr

/-- A code point that is an ISO-8859-1 byte (00_scope.md R14). -/
def isLatin1 (c : Nat) : Bool :=
  c ≤ 255

/-- The ISO-8859-1 bytes of a text of code points at most 255 (00_scope.md R14). -/
def latin1Bytes (t : List Nat) : List Byte :=
  t.map (BitVec.ofNat 8)

/-- Key text to KEY: exactly 8 code points, each at most 255 (45_host_codec.md R210). -/
def keyOfText (t : List Nat) : Except HostError (BitVec 64) :=
  if t.length = 8 ∧ t.all isLatin1 then .ok (BitVec.ofNat 64 (natOfBytesBe (latin1Bytes t)))
  else .error .invalidKey

/-- Right-padding with spaces to 16 bytes (45_host_codec.md R211). -/
def padPlaintext (bs : List Byte) : List Byte :=
  bs ++ List.replicate (16 - bs.length) 0x20

/-- At most 16 payload bytes to DIN (45_host_codec.md R211). -/
def dinOfBytes (bs : List Byte) : Except HostError (BitVec 128) :=
  if bs.length ≤ 16 then .ok (BitVec.ofNat 128 (natOfBytesBe (padPlaintext bs)))
  else .error .invalidPlaintext

/-- Plaintext text to DIN: code points at most 255, at most 16 of them (45_host_codec.md R211). -/
def dinOfPlaintext (t : List Nat) : Except HostError (BitVec 128) :=
  if t.all isLatin1 then dinOfBytes (latin1Bytes t) else .error .invalidPlaintext

/-- The value of a hex digit, either case (45_host_codec.md R212). -/
def hexValue (c : Nat) : Option Nat :=
  if 0x30 ≤ c ∧ c ≤ 0x39 then some (c - 0x30)
  else if 0x61 ≤ c ∧ c ≤ 0x66 then some (c - 0x61 + 10)
  else if 0x41 ≤ c ∧ c ≤ 0x46 then some (c - 0x41 + 10)
  else none

/-- The lowercase hex digit of a value below 16 (45_host_codec.md R213, R215). -/
def hexDigit (v : Nat) : Nat :=
  if v < 10 then 0x30 + v else 0x61 + (v - 10)

/-- The two lowercase hex digits of a byte (45_host_codec.md R215). -/
def hexOfByte (b : Byte) : List Nat :=
  [hexDigit (b.toNat / 16), hexDigit (b.toNat % 16)]

/-- The optional prefix `0x`, removed (45_host_codec.md R212). -/
def stripHexPrefix (t : List Nat) : List Nat :=
  if t.take 2 = [0x30, 0x78] then t.drop 2 else t

/-- The number spelled by hex digits, most significant first, or none at a character that is no hex digit. -/
def hexNumber (t : List Nat) : Option Nat :=
  t.foldl (fun acc c => match acc, hexValue c with
    | some n, some d => some (16 * n + d)
    | _, _ => none) (some 0)

/-- Ciphertext text to DIN: 32 hex digits after the optional prefix (45_host_codec.md R212). -/
def dinOfCiphertext (t : List Nat) : Except HostError (BitVec 128) :=
  if (stripHexPrefix t).length = 32 then
    match hexNumber (stripHexPrefix t) with
    | some n => .ok (BitVec.ofNat 128 n)
    | none => .error .invalidCiphertext
  else .error .invalidCiphertext

/-- DOUT to ciphertext text: `0x` and 32 lowercase hex digits (45_host_codec.md R213). -/
def ciphertextText (dout : BitVec 128) : List Nat :=
  [0x30, 0x78] ++ (bytesBe dout 16).flatMap hexOfByte

/-- The bytes that are escaped, ESC (45_host_codec.md R215). -/
def isEscaped (b : Byte) : Bool :=
  b.toNat ≤ 0x1F || (0x7F ≤ b.toNat && b.toNat ≤ 0xA0) || b.toNat == 0xAD

/-- The rendering of one byte: a backslash, an x and two hex digits, or its own character (45_host_codec.md R215). -/
def renderByte (b : Byte) : List Nat :=
  if isEscaped b then [0x5C, 0x78] ++ hexOfByte b else [b.toNat]

/-- The rendering of a byte sequence (45_host_codec.md R215). -/
def renderBytes (bs : List Byte) : List Nat :=
  bs.flatMap renderByte

/-- DOUT to decrypted plaintext text, no padding stripped (45_host_codec.md R214). -/
def plaintextText (dout : BitVec 128) : List Nat :=
  renderBytes (bytesBe dout 16)

/-- A byte put before a decoded rest. -/
def consByte (b : Byte) : Except HostError (List Byte) → Except HostError (List Byte)
  | .ok bs => .ok (b :: bs)
  | .error e => .error e

/-- The byte of an escape's two digits, where both are hex digits (45_host_codec.md R216). -/
def escapeByte (h1 h0 : Nat) : Option Byte :=
  match hexValue h1, hexValue h0 with
  | some a, some b => some (BitVec.ofNat 8 (16 * a + b))
  | _, _ => none

/-- `Decode(s)`: an escaped string, left to right (45_host_codec.md R216). -/
def decodeEscapes : List Nat → Except HostError (List Byte)
  | [] => .ok []
  | c :: rest =>
    if c = 0x5C ∧ rest.head? = some 0x78 then
      match rest with
      | _ :: h1 :: h0 :: rest' =>
        match escapeByte h1 h0 with
        | some b => consByte b (decodeEscapes rest')
        | none => .error .invalidEscape
      | _ => .error .invalidEscape
    else if isLatin1 c then consByte (BitVec.ofNat 8 c) (decodeEscapes rest)
    else .error .invalidPlaintext

/-- Escaped plaintext text to DIN: decoded, then checked and padded (45_host_codec.md R216, R211). -/
def dinOfEscaped (t : List Nat) : Except HostError (BitVec 128) :=
  match decodeEscapes t with
  | .ok bs => dinOfBytes bs
  | .error e => .error e

end Sys2Proof.Machine
end

