-- ==== Sys2Proof/Machine/HostProgram.lean ====
section
/-! DEFINITION. Host programs: the notation of 30_encoding.md R88, its pseudo-instructions (R89), a host that runs one
against a core, and the document's five operations (45_host_codec.md R220). The host is outside the core (10_state.md R21);
its accesses go through the same window as `step`'s events. -/

namespace Sys2Proof.Machine

/-- A value a program writes: a literal, or the value of a name (30_encoding.md R88). -/
inductive HostValue
  | lit (v : Word)
  | name (x : Nat)
  deriving DecidableEq, Repr

/-- The instructions of a host program (30_encoding.md R88). Names are numbers, and a label is the index of the instruction
it marks (log 11). -/
inductive HostOp
  | wr (off : Nat) (v : HostValue)
  | rd (off : Nat) (x : Nat)
  | bnz (x : Nat) (mask : Word) (target : Nat)
  | halt
  deriving DecidableEq, Repr

/-- `cmd M` (30_encoding.md R88). -/
def cmdOp (i : Instr) : HostOp :=
  .wr 0x000 (.lit (encode i))

/-- The writes of the `n` words of a wide value from an offset, in increasing order (30_encoding.md R89). -/
def wrWords {w : Nat} (base n : Nat) (v : BitVec w) : List HostOp :=
  (List.range n).map fun k => .wr (base + 4 * k) (.lit (getWord v k))

/-- `wr64 KEY, v` (30_encoding.md R89). -/
def wr64Key (v : BitVec 64) : List HostOp :=
  wrWords 0x010 2 v

/-- `wr128 DIN, v` (30_encoding.md R89). -/
def wr128Din (v : BitVec 128) : List HostOp :=
  wrWords 0x020 4 v

/-- `wr256 SUPPLY, v` (30_encoding.md R89). -/
def wr256Supply (v : BitVec 256) : List HostOp :=
  wrWords 0x040 8 v

/-- `poll` into the name `x`, where it stands at index `here` of the program (30_encoding.md R89). -/
def pollAt (here x : Nat) : List HostOp :=
  [.rd 0x004 x, .bnz x 0x1 here]

/-- `run M`, where it stands at index `here` (30_encoding.md R89). -/
def runAt (here x : Nat) (i : Instr) : List HostOp :=
  cmdOp i :: pollAt (here + 1) x

/-- The reads of `n` words from an offset into the names `x`, `x + 1`, ... (30_encoding.md R89). -/
def rdWords (base n x : Nat) : List HostOp :=
  (List.range n).map fun k => .rd (base + 4 * k) (x + k)

/-- `rd128 DOUT` (30_encoding.md R89). -/
def rd128Dout (x : Nat) : List HostOp :=
  rdWords 0x080 4 x

/-- `rd256 HASH` (30_encoding.md R89). -/
def rd256Hash (x : Nat) : List HostOp :=
  rdWords 0x0A0 8 x

/-- `rd256 PRICE` (30_encoding.md R89). -/
def rd256Price (x : Nat) : List HostOp :=
  rdWords 0x0C0 8 x

/-- `rdrk i` (30_encoding.md R89). -/
def rdrk (i : Nat) (x : Nat) : List HostOp :=
  rdWords (0x100 + 8 * i) 2 x

/-- A host and the core it drives: the program, the index of its next instruction, the values of its names (newest first),
and the core. -/
structure HostRun where
  program : List HostOp
  pc : Nat
  names : List (Nat × Word)
  core : State
  deriving DecidableEq, Repr

/-- The value of a name, if it has one. -/
def HostRun.valueOf (h : HostRun) (x : Nat) : Option Word :=
  (h.names.find? fun e => e.1 == x).map (·.2)

/-- A value to write, if it has one. -/
def HostRun.value (h : HostRun) : HostValue → Option Word
  | .lit v => some v
  | .name x => h.valueOf x

/-- The host has ended: at `halt`, or past its last instruction (30_encoding.md R88). -/
def HostRun.halted (h : HostRun) : Bool :=
  match h.program[h.pc]? with
  | none => true
  | some .halt => true
  | some _ => false

/-- The core when the host takes one step (60_exceptions.md R243: LATENCY counts host steps). -/
def HostRun.ticked (h : HostRun) : State :=
  { h.core with wait := h.core.wait - 1 }

/-- The wide value of `n` words held by the names `x`, `x + 1`, ..., the first the least significant (30_encoding.md R89). -/
def HostRun.wide (h : HostRun) (n x : Nat) : Option Nat :=
  (List.range n).foldr (fun k acc => match h.valueOf (x + k), acc with
    | some v, some r => some (v.toNat + 2 ^ 32 * r)
    | _, _ => none) (some 0)

/-- One host step: one instruction of the program. None where it uses a name that has no value. -/
def HostRun.hostStep (h : HostRun) : Option HostRun :=
  match h.program[h.pc]? with
  | none => some h
  | some .halt => some h
  | some (.wr off v) =>
    match h.value v with
    | some x => some { h with pc := h.pc + 1, core := h.ticked.event (.write off 4 x) }
    | none => none
  | some (.rd off x) =>
    match hostRead off 4 h.core with
    | .ok v => some { h with pc := h.pc + 1, names := (x, v) :: h.names, core := h.ticked.event (.read off 4) }
    | .error _ => some { h with pc := h.pc + 1, core := h.ticked.event (.read off 4) }
  | some (.bnz x mask target) =>
    match h.valueOf x with
    | some v => some { h with pc := if v &&& mask = 0 then h.pc + 1 else target, core := h.ticked }
    | none => none

/-- One step of host and core: the completion when its latency is over or the host has ended, else a host step
(60_exceptions.md R243, 70_reset_and_hazards.md R291). -/
def HostRun.step (h : HostRun) : Option HostRun :=
  match h.core.pending with
  | some p =>
    if h.core.wait == 0 || h.halted then
      match h.core.complete p with
      | .next t => some { h with core := t }
      | .fault _ => none
      | .refused _ => none
    else h.hostStep
  | none => h.hostStep

/-- Program P1, what `encrypt` runs after the text checks: KEY, DIN, `run ENC`, the branch to the second `halt` where ERR is
set, DOUT into names 1 to 4, `halt` (95_test_vectors.md P1, 45_host_codec.md R220). -/
def encCoreProgram (key : BitVec 64) (din : BitVec 128) : List HostOp :=
  wr64Key key ++ wr128Din din ++ runAt 6 0 .enc ++ [.bnz 0 0x4 15] ++ rd128Dout 1 ++ [.halt, .halt]

/-- What `decrypt` runs after the text checks: KEY, DIN, `run DEC`, DOUT into names 1 to 4 (45_host_codec.md R220). -/
def decCoreProgram (key : BitVec 64) (din : BitVec 128) : List HostOp :=
  wr64Key key ++ wr128Din din ++ runAt 6 0 .dec ++ rd128Dout 1 ++ [.halt]

/-- `encrypt(k, t)` up to its program: no window access happens where a text is rejected (45_host_codec.md R219, R220). -/
def encryptProgram (k t : List Nat) : Except HostError (List HostOp) := do
  let key ← keyOfText k
  let din ← dinOfPlaintext t
  .ok (encCoreProgram key din)

/-- `decrypt(k, c)` up to its program (45_host_codec.md R220). -/
def decryptProgram (k c : List Nat) : Except HostError (List HostOp) := do
  let key ← keyOfText k
  let din ← dinOfCiphertext c
  .ok (decCoreProgram key din)

/-- `tokenId(d, c)`: DATE, DIN, run TOKENID, read HASH into names 1 to 8 (45_host_codec.md R220). -/
def tokenIdProgram (d : BitVec 32) (c : BitVec 128) : List HostOp :=
  .wr 0x030 (.lit d) :: wr128Din c ++ runAt 5 0 .tokenid ++ rd256Hash 1 ++ [.halt]

/-- `mintPrice(n)` and `burnReward(n)`: SUPPLY, run, then PRICE into names 1 to 8 unless STATUS reports ERR
(45_host_codec.md R220, 70_reset_and_hazards.md R283). -/
def priceProgram (i : Instr) (n : BitVec 256) : List HostOp :=
  wr256Supply n ++ runAt 8 0 i ++ [.bnz 0 0x4 20] ++ rd256Price 1 ++ [.halt]

/-- What `encrypt` returns from a finished run (45_host_codec.md R213, R220). -/
def encryptText (h : HostRun) : Option (List Nat) :=
  (h.wide 4 1).map fun d => ciphertextText (BitVec.ofNat 128 d)

/-- What `decrypt` returns from a finished run (45_host_codec.md R214, R220). -/
def decryptText (h : HostRun) : Option (List Nat) :=
  (h.wide 4 1).map fun d => plaintextText (BitVec.ofNat 128 d)

/-- What a price procedure returns, from the STATUS word it read and the price it read (45_host_codec.md R220). -/
def priceReturned (status : Word) (price : Option Nat) : Option (Except HostError Nat) :=
  if status.getLsbD 2 then
    if status.extractLsb' 8 8 = 0x03 then some (.error .domain) else some (.error .arithmeticOverflow)
  else price.map .ok

end Sys2Proof.Machine
end

