-- ==== Sys2Proof/Machine/Platform.lean ====
section
/-! DEFINITION. Several instances (20_memory.md R68): each has its own window and its own state, and they share nothing. -/

namespace Sys2Proof.Machine

/-- The cores of a platform, instance `k` at index `k` (20_memory.md R68; log 10). -/
structure Platform where
  cores : List State
  deriving DecidableEq, Repr

/-- An access by a host's byte address (20_memory.md R50). -/
inductive BusAccess
  | read (addr width : Nat)
  | write (addr width : Nat) (value : Word)
  deriving DecidableEq, Repr

/-- A platform holds N_INSTANCES cores (92_eei_decisions.md D32). -/
def Platform.wellFormed (p : Platform) : Prop :=
  p.cores.length = Config.nInstances

/-- The platform at the start of the model: every core right after reset (10_state.md R40). -/
def Platform.reset : Platform where
  cores := List.replicate Config.nInstances State.reset

/-- The event an access is at instance `k`: none where its address is outside that instance's window (20_memory.md R50,
R68). -/
def BusAccess.eventAt (k : Nat) : BusAccess → Option HostEvent
  | .read addr width => windowRead k addr width
  | .write addr width v => windowWrite k addr width v

/-- One event more, after those still to come: the accesses of the one host of an instance keep its order (20_memory.md
R63). -/
def State.enqueue (s : State) (e : HostEvent) : State :=
  { s with events := s.events ++ [e] }

/-- A core after one step of its own. -/
def State.stepped (s : State) : State :=
  match step s with
  | .next t => t
  | .fault _ => s
  | .refused _ => s

/-- A core after an access that may or may not be to its window. -/
def State.offered (s : State) : Option HostEvent → State
  | some e => s.enqueue e
  | none => s

/-- One step of instance `k`; every other instance is left as it is (20_memory.md R68). -/
def Platform.stepInstance (p : Platform) (k : Nat) : Platform :=
  { cores := p.cores.modify k State.stepped }

/-- An access goes to the instance whose window its address is in, and to no other; outside every window it is no access to
a core (20_memory.md R50, R68). -/
def Platform.access (p : Platform) (a : BusAccess) : Platform :=
  { cores := p.cores.mapIdx fun k s => s.offered (a.eventAt k) }

end Sys2Proof.Machine
end

