-- ==== Sys2Proof/Safety.lean ====
section
/-! DEFINITION. What claims are stated in: a run without host fault, a final state, the invariant of every reachable state,
and which parts of two states a host can tell apart. -/

namespace Sys2Proof.Machine

/-- No host fault is recorded: the premise of every claim about a run (60_exceptions.md R250). -/
def State.unfaulted (s : State) : Prop :=
  s.fault = none

/-- A final state: no command in flight, no event to come, and no host fault, since a faulted state is never final
(10_state.md R38, 60_exceptions.md R250). -/
def State.final (s : State) : Prop :=
  s.pending = none ∧ s.events = [] ∧ s.unfaulted

/-- A register's words are all defined or all undefined. -/
def wholeOrNone {n : Nat} (d : BitVec n) : Prop :=
  d = 0 ∨ d = BitVec.allOnes n

/-- The invariant of the machine. -/
structure State.Inv (s : State) : Prop where
  /-- STATUS has a legal value (10_state.md R28) -/
  statusLegal : s.status.legal = true
  /-- PENDING is set exactly when BUSY is 1 (10_state.md R36) -/
  busyExact : s.status.busy = s.pending.isSome
  /-- the snapshot equals the live operand registers (10_state.md R36) -/
  snapshotLive : ∀ p, s.pending = some p → p.snap = s.ops
  /-- CMD holds the word in flight (10_state.md R27, 20_memory.md R60) -/
  cmdHeld : ∀ p, s.pending = some p → s.cmd = p.word
  /-- a legal command in flight has its operand words defined (60_exceptions.md R240, R252) -/
  operandsReady : ∀ p i, s.pending = some p → decode p.word = .ok i → operandsDefined i p.snap = true
  /-- only codes 0x00 to 0x03 are ever reported (60_exceptions.md R242) -/
  codeProduced : s.status.ecode.toNat ≤ 3
  /-- result registers are defined as a whole (10_state.md R37) -/
  resultsWhole : wholeOrNone s.doutDef ∧ wholeOrNone s.hashDef ∧ wholeOrNone s.priceDef ∧ wholeOrNone s.rkDef

/-- Two operand blocks with the same definedness bits that agree on every defined word. -/
structure Operands.Same (a b : Operands) : Prop where
  keyDef : a.keyDef = b.keyDef
  dinDef : a.dinDef = b.dinDef
  dateDef : a.dateDef = b.dateDef
  supplyDef : a.supplyDef = b.supplyDef
  words : ∀ u, a.defined u = true → a.word u = b.word u

/-- The commands in flight are the same word on operands that agree on every defined word, or there is none in either. -/
def samePending : Option Pending → Option Pending → Prop
  | none, none => True
  | some p, some q => p.word = q.word ∧ p.snap.Same q.snap
  | _, _ => False

/-- Two states that differ at most in the values of words that are not defined (10_state.md R40: no value may be assumed of
them). -/
structure State.Same (s t : State) : Prop where
  ops : s.ops.Same t.ops
  cmd : s.cmd = t.cmd
  status : s.status = t.status
  doutDef : s.doutDef = t.doutDef
  hashDef : s.hashDef = t.hashDef
  priceDef : s.priceDef = t.priceDef
  rkDef : s.rkDef = t.rkDef
  words : ∀ x, s.defined x = true → s.word x = t.word x
  pending : samePending s.pending t.pending
  fault : s.fault = t.fault
  events : s.events = t.events
  returned : s.returned = t.returned
  wait : s.wait = t.wait
  issues : s.issues = t.issues

/-- The step from `s` takes the event Reset (70_reset_and_hazards.md R270). -/
def State.takesReset (s : State) : Prop :=
  s.completes = false ∧ s.events.head? = some .reset

/-- Between `s` and `t` a command was issued: none was in flight, one is (60_exceptions.md R240). -/
def State.issuedTo (s t : State) : Prop :=
  s.pending = none ∧ t.pending.isSome = true

/-- Between `s` and `t` the command in flight completed (60_exceptions.md R243). -/
def State.completedTo (s t : State) : Prop :=
  s.pending.isSome = true ∧ s.completes = true ∧ t.pending = none

/-- The result registers and their definedness bits are the same in both states. -/
def State.sameResults (s t : State) : Prop :=
  t.dout = s.dout ∧ t.hash = s.hash ∧ t.price = s.price ∧ t.rk = s.rk ∧ t.doutDef = s.doutDef ∧
    t.hashDef = s.hashDef ∧ t.priceDef = s.priceDef ∧ t.rkDef = s.rkDef

/-- Every word of the result registers a command writes is defined (30_encoding.md R85, 10_state.md R37). -/
def State.resultsDefined (t : State) : Instr → Prop
  | .ksched => t.rkDef = BitVec.allOnes 32
  | .enc | .dec => t.rkDef = BitVec.allOnes 32 ∧ t.doutDef = BitVec.allOnes 4
  | .feist | .sbox | .permIp | .permFp | .permE | .permP | .permPc1 | .permPc2 => t.doutDef = BitVec.allOnes 4
  | .tokenid => t.hashDef = BitVec.allOnes 8
  | .mintp | .burnr => t.priceDef = BitVec.allOnes 8

/-- Each result register a command writes holds the value its rule gives on the operands `o` (30_encoding.md R85, and each
command's Pseudocode). -/
def State.holdsResults (t : State) (o : Operands) : Instr → Prop
  | .ksched => t.rk = keySchedule o.key
  | .enc => t.rk = keySchedule o.key ∧ t.dout = desEcb o.din (keySchedule o.key) .enc
  | .dec => t.rk = keySchedule o.key ∧ t.dout = desEcb o.din (keySchedule o.key) .dec
  | .feist => t.dout = (feistelF (feistHalf o) (feistSubkey o)).setWidth 128
  | .sbox => t.dout = (sBoxLayer (sboxInput o)).setWidth 128
  | .permIp => t.dout = (permute 64 tableIP (permInput 64 o)).setWidth 128
  | .permFp => t.dout = (permute 64 tableFP (permInput 64 o)).setWidth 128
  | .permE => t.dout = (permute 48 tableE (permInput 32 o)).setWidth 128
  | .permP => t.dout = (permute 32 tableP (permInput 32 o)).setWidth 128
  | .permPc1 => t.dout = (permute 56 tablePC1 (permInput 64 o)).setWidth 128
  | .permPc2 => t.dout = (permute 48 tablePC2 (permInput 56 o)).setWidth 128
  | .tokenid => t.hash = tokenIdOf o.date o.din
  | .mintp => mintPrice o.supply.toNat = .ok t.price.toNat
  | .burnr => burnReward o.supply.toNat = .ok t.price.toNat

/-- `y` is the S-box layer of `x`, nibble by nibble, in the raw bits of `x`: nibble `i` is the entry of S-box `i` at row
`2 g[5] + g[0]` and column `g[4:1]` of group `g = x[53-6i : 48-6i]` (42_feistel.md R144 to R146). -/
def isSBoxLayer (x : BitVec 48) (y : BitVec 32) : Prop :=
  ∀ i, 1 ≤ i → i ≤ 8 →
    (y.extractLsb' (32 - 4 * i) 4).toNat =
      (sboxes.getD (i - 1) []).getD
        (16 * (2 * (x.getLsbD (48 - 6 * i + 5)).toNat + (x.getLsbD (48 - 6 * i)).toNat) +
          (x.extractLsb' (48 - 6 * i + 1) 4).toNat) 0

end Sys2Proof.Machine
end

