-- ==== Sys2Proof/Certificates/Slice0/Obligations.lean ====
section
/-! DEFINITION. The statements for the provers. Each docstring names the rules it rests on. -/

open Sys2Proof Sys2Proof.Machine

/-! Encoding. -/

/-- 30_encoding.md R90: the command words in hex. -/
def Obligations.CommandWordsInHex : Prop :=
  (encode .ksched = 0x00000001 ∧ encode .enc = 0x00000002 ∧ encode .dec = 0x00000003 ∧
    encode .feist = 0x00000004 ∧ encode .sbox = 0x00000005 ∧ encode .permIp = 0x00000006 ∧
    encode .permFp = 0x00000106 ∧ encode .permE = 0x00000206 ∧ encode .permP = 0x00000306 ∧
    encode .permPc1 = 0x00000406 ∧ encode .permPc2 = 0x00000506 ∧ encode .tokenid = 0x00000007 ∧
    encode .mintp = 0x00000008 ∧ encode .burnr = 0x00000009) ∧
  (decode 0x00000001 = .ok .ksched ∧ decode 0x00000002 = .ok .enc ∧ decode 0x00000003 = .ok .dec ∧
    decode 0x00000004 = .ok .feist ∧ decode 0x00000005 = .ok .sbox ∧ decode 0x00000006 = .ok .permIp ∧
    decode 0x00000106 = .ok .permFp ∧ decode 0x00000206 = .ok .permE ∧ decode 0x00000306 = .ok .permP ∧
    decode 0x00000406 = .ok .permPc1 ∧ decode 0x00000506 = .ok .permPc2 ∧ decode 0x00000007 = .ok .tokenid ∧
    decode 0x00000008 = .ok .mintp ∧ decode 0x00000009 = .ok .burnr)

/-- 30_encoding.md R80 to R83, R87: decoding the word of a command gives it back, and a word that decodes to a command is
that command's word, so that no two words mean one command and no bit is dropped. -/
def Obligations.DecodeAndEncodeAgree : Prop :=
  (∀ i : Instr, decode (encode i) = .ok i) ∧ ∀ (w : Word) (i : Instr), decode w = .ok i → encode i = w

/-- 30_encoding.md R83: the two cases in which a word is legal, and the legality check of WellFormed says the same. -/
def Obligations.LegalWordsExactly : Prop :=
  ∀ w : Word,
    ((∃ i, decode w = .ok i) ↔
      (((1 ≤ (w.extractLsb' 0 8).toNat ∧ (w.extractLsb' 0 8).toNat ≤ 5) ∨
          (7 ≤ (w.extractLsb' 0 8).toNat ∧ (w.extractLsb' 0 8).toNat ≤ 9)) ∧ w.extractLsb' 8 24 = 0) ∨
        (w.extractLsb' 0 8 = 0x06 ∧ (w.extractLsb' 8 4).toNat ≤ 5 ∧ w.extractLsb' 12 20 = 0)) ∧
    (legalWord w = true ↔ ∃ i, decode w = .ok i)

/-- 60_exceptions.md R244, 30_encoding.md R84: a word with one of the four causes is issued whatever is undefined, and its
completion reports ILLEGAL_CMD and changes nothing else; a word with none of them is a command. -/
def Obligations.IllegalWordOnlyReports : Prop :=
  ∀ w : Word,
    (((w.extractLsb' 0 8 = 0 ∨ 0x0A ≤ (w.extractLsb' 0 8).toNat) ∨
        (w.extractLsb' 8 4 ≠ 0 ∧ w.extractLsb' 0 8 ≠ 0x06) ∨
        (w.extractLsb' 0 8 = 0x06 ∧ 6 ≤ (w.extractLsb' 8 4).toNat) ∨ w.extractLsb' 12 20 ≠ 0) →
      (∀ s : State, s.status.busy = false → hostWrite 0x000 4 w s = .ok { s.launch w with cmd := w }) ∧
      ∀ (s : State) (p : Pending), s.pending = some p → p.word = w → s.completes = true →
        step s = .next { s with
          status := { s.status with busy := false, err := true, ecode := 0x01 }
          pending := none
          wait := 0 }) ∧
    (¬ ((w.extractLsb' 0 8 = 0 ∨ 0x0A ≤ (w.extractLsb' 0 8).toNat) ∨
        (w.extractLsb' 8 4 ≠ 0 ∧ w.extractLsb' 0 8 ≠ 0x06) ∨
        (w.extractLsb' 0 8 = 0x06 ∧ 6 ≤ (w.extractLsb' 8 4).toNat) ∨ w.extractLsb' 12 20 ≠ 0) →
      ∃ i, decode w = .ok i)

/-! The step. -/

/-- 60_exceptions.md R243: the completion step runs the command its word decodes to; a word that decodes to none ends with
ILLEGAL_CMD; and a step that completes nothing is the host's turn. When a completion is the next step (`wait` and `events`) is the model's choice,
log 3 and 4. -/
def Obligations.StepRunsTheDecodedCommand : Prop :=
  (∀ (s : State) (p : Pending) (i : Instr), s.pending = some p → (s.wait = 0 ∨ s.events = []) →
    decode p.word = .ok i → step s = exec i s) ∧
  (∀ (s : State) (p : Pending) (e : Illegal), s.pending = some p → (s.wait = 0 ∨ s.events = []) →
    decode p.word = .error e → step s = .next s.finishIllegal) ∧
  (∀ s : State, (s.pending = none ∨ (s.wait ≠ 0 ∧ s.events ≠ [])) → step s = .next s.hostTurn)

/-- 60_exceptions.md R240, R243: from an idle core whose operand words are defined, the host's write of a command word to
CMD as its last event puts the command in flight on a snapshot of the operands, and the step after it is the command. That
the completion follows at once where no event is left is the model's choice, log 4. -/
def Obligations.IssueThenCompletion : Prop :=
  ∀ (s : State) (i : Instr), s.unfaulted → s.pending = none → s.status.busy = false → s.events = [.write 0x000 4 (encode i)] →
    operandsDefined i s.ops = true →
    ∃ t u, step s = .next t ∧ t.pending = some ⟨encode i, s.ops⟩ ∧ t.cmd = encode i ∧ t.status.busy = true ∧
      t.ops = s.ops ∧ s.sameResults t ∧ t.unfaulted ∧ step t = .next u ∧ exec i t = .next u ∧
      u.pending = none ∧ u.status.busy = false ∧ u.final

/-- 60_exceptions.md R250, R243: no access, no command and no illegal word stops the machine: every step of every state
answers a next state (a host fault is a next state, log 5). A meaning by itself answers one exactly when a command is in
flight, which is when a completion is enabled, and stops by name when none is (log 6). -/
def Obligations.EveryStepAnswersNext : Prop :=
  (∀ s : State, ∃ t, step s = .next t) ∧
  ∀ (i : Instr) (s : State),
    ((∃ t, exec i s = .next t) ↔ s.pending.isSome = true) ∧
    (s.pending = none → exec i s = .fault .noCommandInFlight)

/-- The invariant (10_state.md R27, R28, R36, R37, 60_exceptions.md R240, R242) is kept by every step. -/
def Obligations.InvariantKept : Prop :=
  ∀ s t : State, s.Inv → step s = .next t → t.Inv

/-- The invariant holds right after reset. -/
def Obligations.InvariantAtReset : Prop :=
  State.reset.Inv

/-- 60_exceptions.md R243, 70_reset_and_hazards.md R291: unless the platform resets it, a command in flight is still in
flight, its results unwritten, when its latency is over, and then completes. The latency counted in `wait` is the model's
choice, log 3 and 4: a free value, of any size. R250: the premise is that no host fault is recorded in the run. -/
def Obligations.CommandCompletesWithinLatency : Prop :=
  ∀ (s : State) (p : Pending), s.Inv → s.pending = some p → (∀ e ∈ s.events.take s.wait, e ≠ .reset) →
    (∀ (k : Nat) (u : State), k ≤ s.wait → Host.Core.run Sys2Proof.core k s = .next u → u.unfaulted) →
    ∃ (k : Nat) (u t : State), k ≤ s.wait ∧ Host.Core.run Sys2Proof.core k s = .next u ∧ u.pending = some p ∧ u.ops = s.ops ∧
      s.sameResults u ∧ u.completes = true ∧ step u = .next t ∧ t.pending = none ∧ t.status.busy = false ∧
      t.unfaulted

/-- 10_state.md R40, R37 (93_implementation_defined.md U1): no step lets a host see anything of a word that is not defined:
two states that differ only in such words step to two that differ only in such words. So the zeros the model holds there
after reset (log 1) never matter. -/
def Obligations.UndefinedWordsNeverMatter : Prop :=
  ∀ s t : State, s.Inv → s.Same t → ∃ s' t', step s = .next s' ∧ step t = .next t' ∧ s'.Same t'

/-! Reset. -/

/-- 10_state.md R40: the reset values, at the start of the model and after the core reset; every data word is undefined, and
a read of one faults. -/
def Obligations.ResetValues : Prop :=
  (State.reset.cmd = 0 ∧ State.reset.status.word = 0 ∧ State.reset.pending = none ∧ State.reset.fault = none ∧
    ∀ x, x ≠ .cmd → x ≠ .status → State.reset.defined x = false ∧
      hostRead x.offset 4 State.reset = .error .undefRead) ∧
  ∀ s : State, s.coreReset.cmd = 0 ∧ s.coreReset.status.word = 0 ∧ s.coreReset.pending = none ∧
    s.coreReset.fault = s.fault ∧
    ∀ x, x ≠ .cmd → x ≠ .status → s.coreReset.defined x = false ∧
      hostRead x.offset 4 s.coreReset = .error .undefRead

/-- 70_reset_and_hazards.md R270, R271: the step that takes the event Reset abandons a command in flight, leaves the reset
values, and keeps FAULT. That the events to come go on is the model's choice, log 16. -/
def Obligations.ResetEventKeepsFault : Prop :=
  ∀ (s : State) (es : List HostEvent), s.events = .reset :: es → s.completes = false →
    ∃ t, step s = .next t ∧ t.pending = none ∧ t.cmd = 0 ∧ t.status = ⟨false, false, false, 0⟩ ∧
      (∀ x, x ≠ .cmd → x ≠ .status → t.defined x = false) ∧ t.fault = s.fault ∧ t.events = es

/-! Issue. -/

/-- 60_exceptions.md R240: the issue of a word by a write to CMD while BUSY = 0, its one check before anything changes, and
the write to CMD while BUSY = 1. -/
def Obligations.IssueEffect : Prop :=
  ∀ (s : State) (w : Word),
    (s.status.busy = false →
      ((∃ i u, decode w = .ok i ∧ u ∈ operandWords i ∧ s.ops.defined u = false) →
        hostWrite 0x000 4 w s = .error .undefOperand) ∧
      ((∀ i u, decode w = .ok i → u ∈ operandWords i → s.ops.defined u = true) →
        ∃ t, hostWrite 0x000 4 w s = .ok t ∧ t.cmd = w ∧ t.status = ⟨true, false, false, 0⟩ ∧
          t.pending = some ⟨w, s.ops⟩ ∧ t.ops = s.ops ∧ s.sameResults t ∧ t.fault = s.fault ∧
          t.events = s.events ∧ t.returned = s.returned)) ∧
    (s.status.busy = true → hostWrite 0x000 4 w s = .error .busyAccess)

/-- 60_exceptions.md R252 with the words-read column of 30_encoding.md R85: a command word written to an idle core raises
UNDEF_OPERAND exactly when a listed word is undefined, and an illegal word never does. -/
def Obligations.UndefOperandExactly : Prop :=
  (∀ (s : State) (i : Instr), s.status.busy = false →
    (hostWrite 0x000 4 (encode i) s = .error .undefOperand ↔
      match i with
      | .ksched => s.ops.keyDef ≠ 0x3
      | .enc | .dec => s.ops.keyDef ≠ 0x3 ∨ s.ops.dinDef ≠ 0xF
      | .feist => s.ops.dinDef.extractLsb' 0 3 ≠ 0x7
      | .sbox | .permIp | .permFp | .permPc1 | .permPc2 => s.ops.dinDef.extractLsb' 0 2 ≠ 0x3
      | .permE | .permP => s.ops.dinDef.extractLsb' 0 1 ≠ 0x1
      | .tokenid => s.ops.dateDef ≠ 0x1 ∨ s.ops.dinDef ≠ 0xF
      | .mintp | .burnr => s.ops.supplyDef ≠ 0xFF)) ∧
  ∀ (s : State) (w : Word) (e : Illegal), decode w = .error e → hostWrite 0x000 4 w s ≠ .error .undefOperand

/-! The commands' results. `p.snap` is the snapshot of the operands taken at issue (10_state.md R36). Each equation also
says the frame: whatever is not named is unchanged. -/

/-- 41_key_schedule.md R126 (Pseudocode, Status). -/
def Obligations.KschedWritesTheSchedule : Prop :=
  ∀ (s : State) (p : Pending), s.pending = some p →
    exec .ksched s = .next { s with
      rk := keySchedule p.snap.key
      rkDef := BitVec.allOnes 32
      status := ⟨false, true, false, 0⟩
      pending := none
      wait := 0 }

/-- 43_block_cipher.md R166 (Pseudocode, Status). -/
def Obligations.EncEncryptsBothBlocks : Prop :=
  ∀ (s : State) (p : Pending), s.pending = some p →
    exec .enc s = .next { s with
      dout := desBlock (p.snap.din.extractLsb' 64 64) (keySchedule p.snap.key) .enc ++
        desBlock (p.snap.din.extractLsb' 0 64) (keySchedule p.snap.key) .enc
      doutDef := BitVec.allOnes 4
      rk := keySchedule p.snap.key
      rkDef := BitVec.allOnes 32
      status := ⟨false, true, false, 0⟩
      pending := none
      wait := 0 }

/-- 43_block_cipher.md R167 (Pseudocode, Status): RK gets the encryption order. -/
def Obligations.DecDecryptsBothBlocks : Prop :=
  ∀ (s : State) (p : Pending), s.pending = some p →
    exec .dec s = .next { s with
      dout := desBlock (p.snap.din.extractLsb' 64 64) (keySchedule p.snap.key) .dec ++
        desBlock (p.snap.din.extractLsb' 0 64) (keySchedule p.snap.key) .dec
      doutDef := BitVec.allOnes 4
      rk := keySchedule p.snap.key
      rkDef := BitVec.allOnes 32
      status := ⟨false, true, false, 0⟩
      pending := none
      wait := 0 }

/-- 42_feistel.md R148 (Pseudocode, Status), 30_encoding.md R86: `R = DIN[31:0]`, `K = DIN[79:32]`; and R147, what the
round function is: for every R and K, P of the S-box layer of E(R) XOR K, the layer nibble by nibble. -/
def Obligations.FeistEvaluatesTheRoundFunction : Prop :=
  (∀ (s : State) (p : Pending), s.pending = some p →
    exec .feist s = .next { s with
      dout := (feistelF (p.snap.din.extractLsb' 0 32) (p.snap.din.extractLsb' 32 48)).setWidth 128
      doutDef := BitVec.allOnes 4
      status := ⟨false, true, false, 0⟩
      pending := none
      wait := 0 }) ∧
  ∀ (r : Half) (k : Subkey), ∃ y : BitVec 32,
    isSBoxLayer (permute 48 tableE r ^^^ k) y ∧ feistelF r k = permute 32 tableP y

/-- 42_feistel.md R149 (Pseudocode, Status), R144 to R146: DOUT nibble by nibble, from `DIN[47:0]`: nibble `i` is the entry
of S-box `i` at row `2 g[5] + g[0]` and column `g[4:1]` of group `i`; the upper bits are 0. -/
def Obligations.SboxLooksUpEveryGroup : Prop :=
  ∀ (s : State) (p : Pending), s.pending = some p →
    ∃ y : BitVec 32,
      isSBoxLayer (p.snap.din.extractLsb' 0 48) y ∧
      exec .sbox s = .next { s with
        dout := (0 : BitVec 96) ++ y
        doutDef := BitVec.allOnes 4
        status := ⟨false, true, false, 0⟩
        pending := none
        wait := 0 }

/-- 40_bitvector.md R106 (Pseudocode, Status), R100, 30_encoding.md R82: the six PERM commands, bit by bit: DES position `j`
of the `m`-bit result is DES position `T[j]` of `DIN[n-1:0]`, and the upper bits of DOUT are 0. -/
def Obligations.PermCommandsPermuteEveryBit : Prop :=
  ∀ (s : State) (p : Pending), s.pending = some p →
    ∀ row ∈ [(Instr.permIp, 64, 64, tableIP), (.permFp, 64, 64, tableFP), (.permE, 32, 48, tableE),
        (.permP, 32, 32, tableP), (.permPc1, 64, 56, tablePC1), (.permPc2, 56, 48, tablePC2)],
      ∃ d : BitVec 128,
        exec row.1 s = .next { s with
          dout := d
          doutDef := BitVec.allOnes 4
          status := ⟨false, true, false, 0⟩
          pending := none
          wait := 0 } ∧
        (∀ j, 1 ≤ j → j ≤ row.2.2.1 →
          d.getLsbD (row.2.2.1 - j) = p.snap.din.getLsbD (row.2.1 - row.2.2.2.getD (j - 1) 0)) ∧
        ∀ j, row.2.2.1 ≤ j → d.getLsbD j = false

/-- 44_identity_economics.md R188 (Pseudocode, Status), R187: HASH byte by byte is the Keccak-256 digest of the four bytes of
DATE and the sixteen of DIN, most significant first; and R180, R186: byte `j` of the digest is byte `j mod 8`, least
significant first, of lane `j div 8` of the permuted padded block. The hash is the spec's from general knowledge
(93_implementation_defined.md G6; log 9). -/
def Obligations.TokenidHashesTheDescriptor : Prop :=
  ∀ (s : State) (p : Pending), s.pending = some p →
    ∃ h : BitVec 256,
      exec .tokenid s = .next { s with
        hash := h
        hashDef := BitVec.allOnes 8
        status := ⟨false, true, false, 0⟩
        pending := none
        wait := 0 } ∧
      ∃ msg : List Byte, msg.length = 20 ∧
        (∀ j, j < 4 → msg.getD j 0 = p.snap.date.extractLsb' (8 * (3 - j)) 8) ∧
        (∀ j, j < 16 → msg.getD (4 + j) 0 = p.snap.din.extractLsb' (8 * (15 - j)) 8) ∧
        (keccak256 msg).length = 32 ∧
        ∀ j, j < 32 →
          h.extractLsb' (8 * (31 - j)) 8 = (keccak256 msg).getD j 0 ∧
          (keccak256 msg).getD j 0 =
            ((keccakF (lanesOfBlock (msg ++ keccakPad 20))).getD (j / 8) 0).extractLsb' (8 * (j % 8)) 8

/-- 44_identity_economics.md R191 (Pseudocode, Status, Errors), R192: up to N_MINT_MAX the price is `10^15 (n + 10)` exactly;
above it the command reports OVERFLOW and PRICE keeps its value. -/
def Obligations.MintpPriceOrOverflow : Prop :=
  ∀ (s : State) (p : Pending), s.pending = some p →
    (p.snap.supply.toNat ≤ 115792089237316195423570985008687907853269984665640564039457574 →
      ∃ v : BitVec 256, v.toNat = 10 ^ 15 * (p.snap.supply.toNat + 10) ∧
        exec .mintp s = .next { s with
          price := v
          priceDef := BitVec.allOnes 8
          status := ⟨false, true, false, 0⟩
          pending := none
          wait := 0 }) ∧
    (115792089237316195423570985008687907853269984665640564039457574 < p.snap.supply.toNat →
      exec .mintp s = .next { s with
        status := { s.status with busy := false, err := true, ecode := 0x02 }
        pending := none
        wait := 0 })

/-- 44_identity_economics.md R193 (Pseudocode, Status, Errors), R192: the reward is `995 * 10^12 (n + 9)` exactly for
`1 ≤ n ≤ N_BURN_MAX`; at 0 the command reports DOMAIN, above N_BURN_MAX OVERFLOW, and PRICE keeps its value. -/
def Obligations.BurnrRewardOrError : Prop :=
  ∀ (s : State) (p : Pending), s.pending = some p →
    (1 ≤ p.snap.supply.toNat →
      p.snap.supply.toNat ≤ 11637395903247858836539797488310342497816078860868398395916 →
      ∃ v : BitVec 256, v.toNat = 995 * 10 ^ 12 * (p.snap.supply.toNat + 9) ∧
        exec .burnr s = .next { s with
          price := v
          priceDef := BitVec.allOnes 8
          status := ⟨false, true, false, 0⟩
          pending := none
          wait := 0 }) ∧
    (p.snap.supply.toNat = 0 →
      exec .burnr s = .next { s with
        status := { s.status with busy := false, err := true, ecode := 0x03 }
        pending := none
        wait := 0 }) ∧
    (11637395903247858836539797488310342497816078860868398395916 < p.snap.supply.toNat →
      exec .burnr s = .next { s with
        status := { s.status with busy := false, err := true, ecode := 0x02 }
        pending := none
        wait := 0 })

/-- 10_state.md R22 and 30_encoding.md R85: the frame of every command. A completion leaves the operand registers with their
definedness bits, CMD, FAULT and the host's lists as they were, and each result register that is not the command's own. -/
def Obligations.CompletionFrame : Prop :=
  ∀ (i : Instr) (s t : State), exec i s = .next t →
    t.ops = s.ops ∧ t.cmd = s.cmd ∧ t.fault = s.fault ∧ t.events = s.events ∧ t.returned = s.returned ∧
    t.issues = s.issues ∧
    (i ∉ [Instr.enc, .dec, .feist, .sbox, .permIp, .permFp, .permE, .permP, .permPc1, .permPc2] →
      t.dout = s.dout ∧ t.doutDef = s.doutDef) ∧
    (i ≠ .tokenid → t.hash = s.hash ∧ t.hashDef = s.hashDef) ∧
    (i ≠ .mintp → i ≠ .burnr → t.price = s.price ∧ t.priceDef = s.priceDef) ∧
    (i ∉ [Instr.ksched, .enc, .dec] → t.rk = s.rk ∧ t.rkDef = s.rkDef)

/-- 10_state.md R22: what a command reports and what it writes is a function of the operands at its issue and of nothing
else: with the same snapshot two states, whatever else differs in them, get the same report and the same value in each
register the command writes. -/
def Obligations.ResultsFromOperandsOnly : Prop :=
  ∀ (i : Instr) (s s' t t' : State) (p p' : Pending), s.pending = some p → s'.pending = some p' → p.snap = p'.snap →
    exec i s = .next t → exec i s' = .next t' →
    t.status.busy = t'.status.busy ∧ t.status.err = t'.status.err ∧ t.status.ecode = t'.status.ecode ∧
    (t.status.err = false → t.status.done = t'.status.done ∧
      (i ∈ [Instr.enc, .dec, .feist, .sbox, .permIp, .permFp, .permE, .permP, .permPc1, .permPc2] → t.dout = t'.dout) ∧
      (i = .tokenid → t.hash = t'.hash) ∧ (i = .mintp ∨ i = .burnr → t.price = t'.price) ∧
      (i ∈ [Instr.ksched, .enc, .dec] → t.rk = t'.rk))

/-- 60_exceptions.md R241, R242: a completion either reports no error and leaves each result register of the command defined
and with the value of its rule on the snapshot, or reports a code 0x01 to 0x03 and leaves every result register and definedness bit as it was. -/
def Obligations.AllResultsOrNone : Prop :=
  ∀ (s t : State) (p : Pending), s.pending = some p → s.complete p = .next t →
    (∃ i, decode p.word = .ok i ∧ t.status = ⟨false, true, false, 0⟩ ∧ t.resultsDefined i ∧ t.holdsResults p.snap i) ∨
    (t.status.err = true ∧ t.status.ecode ∈ [0x01#8, 0x02#8, 0x03#8] ∧ s.sameResults t)

/-! The units. -/

/-- 40_bitvector.md R100, R101: `Permute` by DES positions, for every table that is well formed. -/
def Obligations.PermuteByPosition : Prop :=
  ∀ (n m : Nat) (t : List Nat) (v : BitVec n), t.length = m → tableWellFormed n t = true →
    ∀ i, 1 ≤ i → i ≤ m → pos (permute m t v) i = pos v (t.getD (i - 1) 0) ∧
      (permute m t v).getLsbD (m - i) = v.getLsbD (n - t.getD (i - 1) 0)

/-- 40_bitvector.md R101: the six fixed tables are well formed and have the sizes of 30_encoding.md R82. -/
def Obligations.FixedTablesWellFormed : Prop :=
  (tableWellFormed 64 tableIP = true ∧ tableIP.length = 64) ∧ (tableWellFormed 64 tableFP = true ∧ tableFP.length = 64) ∧
  (tableWellFormed 32 tableE = true ∧ tableE.length = 48) ∧ (tableWellFormed 32 tableP = true ∧ tableP.length = 32) ∧
  (tableWellFormed 64 tablePC1 = true ∧ tablePC1.length = 56) ∧
  (tableWellFormed 56 tablePC2 = true ∧ tablePC2.length = 48) ∧
  ∀ box ∈ sboxes, ∀ row < 4, ∀ v < 16, v ∈ (box.drop (16 * row)).take 16

/-- 40_bitvector.md R102: the rotation in DES positions, for every width and every count. -/
def Obligations.RotateByPosition : Prop :=
  ∀ (w : Nat) (v : BitVec w) (n : Nat), 0 < w →
    (∀ j, 1 ≤ j → j ≤ w → pos (rotl v n) j = pos v ((j - 1 + n % w) % w + 1)) ∧ (n % w = 0 → rotl v n = v)

/-- 41_key_schedule.md R122, R123: the rotations accumulate: subkey `i` is PC-2 of the PC-1 halves, each turned left by the
sum of the first `i + 1` shifts. -/
def Obligations.SubkeysByAccumulatedShifts : Prop :=
  ∀ (key : BitVec 64) (i : Fin 16),
    (keySchedule key)[i.val] =
      permute 48 tablePC2
        (rotl ((permute 56 tablePC1 key).extractLsb' 28 28) (shifts.take (i.val + 1)).sum ++
          rotl ((permute 56 tablePC1 key).extractLsb' 0 28) (shifts.take (i.val + 1)).sum)

/-- 41_key_schedule.md R127: the shifts sum to 28, and after round 16 the halves are the PC-1 halves again. -/
def Obligations.HalvesComeBack : Prop :=
  shifts.sum = 28 ∧ ∀ key : BitVec 64, shifts.foldl rotateHalves (keyHalves key) = keyHalves key

/-- 41_key_schedule.md R125: keys that differ only in parity bits have one schedule, and ENC and DEC give the same results
with them. -/
def Obligations.ParityBitsNeverMatter : Prop :=
  ∀ (key mask : BitVec 64), (∀ j, mask.getLsbD j = true → j % 8 = 0) →
    keySchedule (key ^^^ mask) = keySchedule key ∧
    ∀ o : Operands, o.key = key →
      encResult { o with key := key ^^^ mask } = encResult o ∧ decResult { o with key := key ^^^ mask } = decResult o

/-- 41_key_schedule.md R126 and 43_block_cipher.md R166 (Corner cases): a key whose halves are each all zeros or all ones has
sixteen equal subkeys, and encryption equals decryption, so that encrypting twice gives the payload back. -/
def Obligations.WeakKeysEncryptAsTheyDecrypt : Prop :=
  ∀ key : BitVec 64,
    ((keyHalves key).1 = 0 ∨ (keyHalves key).1 = BitVec.allOnes 28) →
    ((keyHalves key).2 = 0 ∨ (keyHalves key).2 = BitVec.allOnes 28) →
    (∀ i j : Fin 16, (keySchedule key)[i.val] = (keySchedule key)[j.val]) ∧
    ∀ x : BitVec 128, desEcb x (keySchedule key) .enc = desEcb x (keySchedule key) .dec ∧
      desEcb (desEcb x (keySchedule key) .enc) (keySchedule key) .enc = x

/-- 43_block_cipher.md R161: FP is the inverse of IP, both ways, and in the tables `FP[IP[j]] = j`. -/
def Obligations.FinalInvertsInitial : Prop :=
  (∀ x : Block, permute 64 tableFP (permute 64 tableIP x) = x ∧ permute 64 tableIP (permute 64 tableFP x) = x) ∧
    ∀ j, 1 ≤ j → j ≤ 64 → tableFP.getD (tableIP.getD (j - 1) 0 - 1) 0 = j

/-- 43_block_cipher.md R169: the round-trip laws, of a block under any sixteen subkeys, and of the commands: what ENC makes
of DIN, DEC under the same KEY turns back, and the other way round. -/
def Obligations.CipherRoundTrip : Prop :=
  (∀ (b : Block) (sk : Vector Subkey 16),
    desBlock (desBlock b sk .enc) sk .dec = b ∧ desBlock (desBlock b sk .dec) sk .enc = b) ∧
  ∀ (s s' t : State) (p p' : Pending), s.pending = some p → s'.pending = some p' → p'.snap.key = p.snap.key →
    p'.snap.din = t.dout →
    (exec .enc s = .next t → ∃ t', exec .dec s' = .next t' ∧ t'.dout = p.snap.din) ∧
    (exec .dec s = .next t → ∃ t', exec .enc s' = .next t' ∧ t'.dout = p.snap.din)

/-- 43_block_cipher.md R168: each block of DOUT depends on KEY and its own block of DIN only, equal blocks give equal blocks,
and nothing carries over from one command to the next. -/
def Obligations.EcbBlocksAreIndependent : Prop :=
  ∀ i ∈ [Instr.enc, .dec], ∀ (s s' : State) (p p' : Pending), s.pending = some p → s'.pending = some p' →
    p.snap.key = p'.snap.key →
    ∃ t t', exec i s = .next t ∧ exec i s' = .next t' ∧
      (p.snap.din.extractLsb' 64 64 = p'.snap.din.extractLsb' 64 64 →
        t.dout.extractLsb' 64 64 = t'.dout.extractLsb' 64 64) ∧
      (p.snap.din.extractLsb' 0 64 = p'.snap.din.extractLsb' 0 64 →
        t.dout.extractLsb' 0 64 = t'.dout.extractLsb' 0 64) ∧
      (p.snap.din.extractLsb' 64 64 = p'.snap.din.extractLsb' 0 64 →
        t.dout.extractLsb' 64 64 = t'.dout.extractLsb' 0 64)

/-- 42_feistel.md R148 and 43_block_cipher.md R166 (Corner cases): complementing both inputs leaves the round function's
value, and complementing block and key complements the cipher's. -/
def Obligations.CipherComplement : Prop :=
  (∀ (r : Half) (k : Subkey), feistelF (~~~r) (~~~k) = feistelF r k) ∧
  ∀ (b : Block) (key : BitVec 64) (dir : Direction),
    desBlock (~~~b) (keySchedule (~~~key)) dir = ~~~(desBlock b (keySchedule key) dir)

/-- 43_block_cipher.md R162 to R165, 41_key_schedule.md R124: the block function round by round: there are halves for the
sixteen rounds, starting with the halves of IP(b), each from the one before with the round's subkey (`SK[r-1]` to encrypt,
`SK[16-r]` to decrypt), and the output is FP of right then left. -/
def Obligations.BlockRoundByRound : Prop :=
  ∀ (b : Block) (sk : Vector Subkey 16) (dir : Direction),
    ∃ l r : Nat → Half,
      l 0 = (permute 64 tableIP b).extractLsb' 32 32 ∧ r 0 = (permute 64 tableIP b).extractLsb' 0 32 ∧
      (∀ n, 1 ≤ n → n ≤ 16 → l n = r (n - 1) ∧
        r n = l (n - 1) ^^^ feistelF (r (n - 1))
          (match dir with
            | .enc => sk.toList.getD (n - 1) 0
            | .dec => sk.toList.getD (16 - n) 0)) ∧
      desBlock b sk dir = permute 64 tableFP (r 16 ++ l 16)

/-- 44_identity_economics.md R183, R184, R185: one Keccak round lane by lane; ρ and π as the rule writes them. The hash is
the spec's from general knowledge (93_implementation_defined.md G6; log 9). -/
def Obligations.KeccakRoundLaneByLane : Prop :=
  ∀ a : List Lane, a.length = 25 →
    (∀ x < 5, ∀ y < 5,
      lane (theta a) x y = lane a x y ^^^
        ((lane a (x + 4) 0 ^^^ lane a (x + 4) 1 ^^^ lane a (x + 4) 2 ^^^ lane a (x + 4) 3 ^^^ lane a (x + 4) 4) ^^^
          rotl (lane a (x + 1) 0 ^^^ lane a (x + 1) 1 ^^^ lane a (x + 1) 2 ^^^ lane a (x + 1) 3 ^^^ lane a (x + 1) 4) 1) ∧
      lane (rhoPi a) y (2 * x + 3 * y) = rotl (lane a x y) (rotationOffset x y) ∧
      lane (chi a) x y = lane a x y ^^^ (~~~(lane a (x + 1) y) &&& lane a (x + 2) y) ∧
      ∀ rc, lane (iota rc a) x y = lane a x y ^^^ (if x = 0 ∧ y = 0 then rc else 0)) ∧
    (∀ rc, keccakRound a rc = iota rc (chi (rhoPi (theta a)))) ∧
    ∃ b : Nat → List Lane, b 0 = a ∧ (∀ ir < 24, b (ir + 1) = keccakRound (b ir) (roundConstant ir)) ∧ keccakF a = b 24

/-- 44_identity_economics.md R181, R182, R188: the state after absorbing the padded block of a descriptor, lane by lane: each
lane is the little-endian integer of its eight bytes (log 9). -/
def Obligations.TokenBlockLanes : Prop :=
  ∀ (d : BitVec 32) (c : BitVec 128),
    (bytesBe d 4 ++ bytesBe c 16).length = 20 ∧
    lanesOfBlock (bytesBe d 4 ++ bytesBe c 16 ++ keccakPad 20) =
      [c.extractLsb' 96 8 ++ c.extractLsb' 104 8 ++ c.extractLsb' 112 8 ++ c.extractLsb' 120 8 ++
          d.extractLsb' 0 8 ++ d.extractLsb' 8 8 ++ d.extractLsb' 16 8 ++ d.extractLsb' 24 8,
        c.extractLsb' 32 8 ++ c.extractLsb' 40 8 ++ c.extractLsb' 48 8 ++ c.extractLsb' 56 8 ++
          c.extractLsb' 64 8 ++ c.extractLsb' 72 8 ++ c.extractLsb' 80 8 ++ c.extractLsb' 88 8,
        0x00000001#32 ++ c.extractLsb' 0 8 ++ c.extractLsb' 8 8 ++ c.extractLsb' 16 8 ++ c.extractLsb' 24 8] ++
      List.replicate 13 0 ++ [0x8000000000000000] ++ List.replicate 8 0

/-- 44_identity_economics.md R194: the price laws in their ranges, and the errors outside them. -/
def Obligations.PriceLaws : Prop :=
  (∀ n : Nat, n + 1 ≤ nMintMax →
    ∃ a b, mintPrice n = .ok a ∧ mintPrice (n + 1) = .ok b ∧ b = a + 10 ^ 15) ∧
  (∀ n : Nat, 1 ≤ n → n ≤ nBurnMax →
    ∃ a b, mintPrice (n - 1) = .ok a ∧ burnReward n = .ok b ∧ b * 1000 = a * 995) ∧
  (∀ n : Nat, nMintMax < n → mintPrice n = .error .overflow) ∧
  burnReward 0 = .error .domain ∧ ∀ n : Nat, nBurnMax < n → burnReward n = .error .overflow

/-! The window. -/

/-- 20_memory.md R51, R52: the register map row by row, its unmapped ranges, its read-only words, and the bits each word
holds. -/
def Obligations.RegisterMap : Prop :=
  (wordAt 0x000 = some .cmd ∧ wordAt 0x004 = some .status ∧
    (∀ n : Fin 2, wordAt (0x010 + 4 * n.val) = some (.operand (.key n))) ∧
    (∀ n : Fin 4, wordAt (0x020 + 4 * n.val) = some (.operand (.din n))) ∧
    wordAt 0x030 = some (.operand .date) ∧
    (∀ n : Fin 8, wordAt (0x040 + 4 * n.val) = some (.operand (.supply n))) ∧
    (∀ n : Fin 4, wordAt (0x080 + 4 * n.val) = some (.dout n)) ∧
    (∀ n : Fin 8, wordAt (0x0A0 + 4 * n.val) = some (.hash n)) ∧
    (∀ n : Fin 8, wordAt (0x0C0 + 4 * n.val) = some (.price n)) ∧
    (∀ i : Fin 16, wordAt (0x100 + 8 * i.val) = some (.rkLow i) ∧ wordAt (0x104 + 8 * i.val) = some (.rkHigh i))) ∧
  (∀ off, off < 0x200 → off % 4 = 0 → (wordAt off = none ↔
    (0x008 ≤ off ∧ off ≤ 0x00F) ∨ (0x018 ≤ off ∧ off ≤ 0x01F) ∨ (0x034 ≤ off ∧ off ≤ 0x03F) ∨
    (0x060 ≤ off ∧ off ≤ 0x07F) ∨ (0x090 ≤ off ∧ off ≤ 0x09F) ∨ (0x0E0 ≤ off ∧ off ≤ 0x0FF) ∨
    (0x180 ≤ off ∧ off ≤ 0x1FF))) ∧
  (∀ x : WindowWord, x.readOnly = false ↔ x = .cmd ∨ ∃ u, x = .operand u) ∧
  ∀ (s : State) (j : Nat), j < 32 →
    ((s.word .cmd).getLsbD j = s.cmd.getLsbD j) ∧
    ((s.word .status).getLsbD j = s.status.word.getLsbD j) ∧
    (∀ n : Fin 2, (s.word (.operand (.key n))).getLsbD j = s.ops.key.getLsbD (32 * n.val + j)) ∧
    (∀ n : Fin 4, (s.word (.operand (.din n))).getLsbD j = s.ops.din.getLsbD (32 * n.val + j)) ∧
    ((s.word (.operand .date)).getLsbD j = s.ops.date.getLsbD j) ∧
    (∀ n : Fin 8, (s.word (.operand (.supply n))).getLsbD j = s.ops.supply.getLsbD (32 * n.val + j)) ∧
    (∀ n : Fin 4, (s.word (.dout n)).getLsbD j = s.dout.getLsbD (32 * n.val + j)) ∧
    (∀ n : Fin 8, (s.word (.hash n)).getLsbD j = s.hash.getLsbD (32 * n.val + j)) ∧
    (∀ n : Fin 8, (s.word (.price n)).getLsbD j = s.price.getLsbD (32 * n.val + j)) ∧
    (∀ i : Fin 16, (s.word (.rkLow i)).getLsbD j = s.rk[i.val].getLsbD j) ∧
    (∀ i : Fin 16, (s.word (.rkHigh i)).getLsbD j = s.rk[i.val].getLsbD (32 + j))

/-- 20_memory.md R50, R68: the window of each instance stands at a multiple of 0x200, an address inside it is its offset
from CORE_BASE, any other address is no access to that core, and no address is in the windows of two instances. That an
offset beyond the window is mapped to nothing is log 13. -/
def Obligations.WindowAtCoreBase : Prop :=
  (∀ (k addr width : Nat) (v : Word),
    Config.coreBase k % 0x200 = 0 ∧
    (∀ off, off < 0x200 → addr = Config.coreBase k + off →
      windowRead k addr width = some (.read off width) ∧ windowWrite k addr width v = some (.write off width v)) ∧
    ((addr < Config.coreBase k ∨ Config.coreBase k + 0x200 ≤ addr) →
      windowRead k addr width = none ∧ windowWrite k addr width v = none)) ∧
  (∀ j k addr : Nat, j ≠ k → inWindow j addr = true → inWindow k addr = false) ∧
  ∀ off, 0x200 ≤ off → wordAt off = none

/-- 20_memory.md R57, R58, with the order of 60_exceptions.md R247: an access of another width, at an offset that is no
multiple of 4, at an unmapped offset, or a write of a read-only word, sets FAULT to its reason and has no other effect,
whether the core is busy or not. -/
def Obligations.MisusedAccessOnlyFaults : Prop :=
  ∀ (s : State) (off width : Nat) (v : Word),
    (width ≠ 4 →
      s.event (.read off width) = { s with fault := some .badWidth } ∧
      s.event (.write off width v) = { s with fault := some .badWidth }) ∧
    (width = 4 → off % 4 ≠ 0 →
      s.event (.read off width) = { s with fault := some .misaligned } ∧
      s.event (.write off width v) = { s with fault := some .misaligned }) ∧
    (width = 4 → off % 4 = 0 → wordAt off = none →
      s.event (.read off width) = { s with fault := some .unmapped } ∧
      s.event (.write off width v) = { s with fault := some .unmapped }) ∧
    (width = 4 → off % 4 = 0 →
      (off = 0x004 ∨ (0x080 ≤ off ∧ off < 0x090) ∨ (0x0A0 ≤ off ∧ off < 0x0E0) ∨ (0x100 ≤ off ∧ off < 0x180)) →
      s.event (.write off width v) = { s with fault := some .roWrite })

/-- 70_reset_and_hazards.md R280: while BUSY = 1 the host may read STATUS and CMD; any write of an operand register or of
CMD, and any read of another word, is BUSY_ACCESS. -/
def Obligations.BusyHazard : Prop :=
  ∀ s : State, s.status.busy = true →
    hostRead 0x004 4 s = .ok s.status.word ∧ hostRead 0x000 4 s = .ok s.cmd ∧
    (∀ (off : Nat) (v : Word) (x : WindowWord), off % 4 = 0 → wordAt off = some x → x.readOnly = false →
      s.event (.write off 4 v) = { s with fault := some .busyAccess }) ∧
    (∀ (off : Nat) (x : WindowWord), off % 4 = 0 → wordAt off = some x → off ≠ 0x004 → off ≠ 0x000 →
      s.event (.read off 4) = { s with fault := some .busyAccess })

/-- 20_memory.md R59, 60_exceptions.md R247: a read of a mapped word: BUSY_ACCESS, then UNDEF_READ, else the word's value;
a read that answers changes nothing but the host's own list of returned words. -/
def Obligations.ReadReturnsTheWord : Prop :=
  ∀ (s : State) (off : Nat) (x : WindowWord), off % 4 = 0 → wordAt off = some x →
    (s.status.busy = true → x ≠ .status → x ≠ .cmd → hostRead off 4 s = .error .busyAccess) ∧
    ((s.status.busy = false ∨ x = .status ∨ x = .cmd) → s.defined x = false → hostRead off 4 s = .error .undefRead) ∧
    ((s.status.busy = false ∨ x = .status ∨ x = .cmd) → s.defined x = true →
      hostRead off 4 s = .ok (s.word x) ∧ s.event (.read off 4) = { s with returned := s.word x :: s.returned }) ∧
    s.defined .cmd = true ∧ s.defined .status = true

/-- 20_memory.md R60, R61, 10_state.md R37: a write of an operand word of an idle core sets that word and its definedness bit,
leaves every other word of the window and its definedness as they were, and twice is as once. -/
def Obligations.OperandWriteSetsOneWord : Prop :=
  ∀ (s : State) (u : OperandWord) (v : Word), s.status.busy = false →
    ∃ t, hostWrite (WindowWord.operand u).offset 4 v s = .ok t ∧
      t.word (.operand u) = v ∧ t.defined (.operand u) = true ∧
      (∀ x, x ≠ .operand u → t.word x = s.word x ∧ t.defined x = s.defined x) ∧
      t.pending = s.pending ∧ t.status = s.status ∧ t.fault = s.fault ∧ s.sameResults t ∧
      hostWrite (WindowWord.operand u).offset 4 v t = .ok t

/-- 10_state.md R38, 60_exceptions.md R250: no step clears FAULT, a reset included; so a run whose last state has no host
fault recorded has none in any state on its way, and no run from a faulted state comes to a final state. -/
def Obligations.FaultIsNeverCleared : Prop :=
  (∀ s t : State, step s = .next t → s.fault.isSome = true → t.fault.isSome = true) ∧
  (∀ (s t : State) (k j : Nat), j ≤ k → Host.Core.run Sys2Proof.core k s = .next t → t.unfaulted →
    ∃ u, Host.Core.run Sys2Proof.core j s = .next u ∧ u.unfaulted) ∧
  ∀ (s t : State) (k : Nat), s.fault.isSome = true → Host.Core.run Sys2Proof.core k s = .next t → ¬ t.final

/-- 20_memory.md R53: RK[i] word 1 reads RK[i][47:32] and zeros, and the reserved bits of STATUS read 0. -/
def Obligations.ReservedBitsReadZero : Prop :=
  (∀ (s : State) (i : Fin 16),
    (s.word (.rkHigh i)).extractLsb' 0 16 = s.rk[i.val].extractLsb' 32 16 ∧
    (s.word (.rkHigh i)).extractLsb' 16 16 = 0) ∧
  ∀ s : State, (s.word .status).extractLsb' 3 5 = 0 ∧ (s.word .status).extractLsb' 16 16 = 0

/-- 10_state.md R28: the layout of STATUS, its legal values in every state that meets the invariant, and its reset value. -/
def Obligations.StatusLayout : Prop :=
  (∀ st : Status,
    st.word.getLsbD 0 = st.busy ∧ st.word.getLsbD 1 = st.done ∧ st.word.getLsbD 2 = st.err ∧
    st.word.extractLsb' 3 5 = 0 ∧ st.word.extractLsb' 8 8 = st.ecode ∧ st.word.extractLsb' 16 16 = 0) ∧
  (∀ s : State, s.Inv →
    ¬(s.status.busy = true ∧ s.status.done = true) ∧ ¬(s.status.busy = true ∧ s.status.err = true) ∧
    ¬(s.status.done = true ∧ s.status.err = true) ∧ (s.status.ecode ≠ 0 ↔ s.status.err = true)) ∧
  State.reset.status.word = 0 ∧
  ∀ (s : State) (v : Word), s.event (.write 0x004 4 v) = { s with fault := some .roWrite }

/-! Whole-machine rules: over every step of every state. -/

/-- 10_state.md R29: BUSY is set by the issue of any command, legal or illegal, and cleared by that command's completion; no
other step but a reset (70_reset_and_hazards.md R270) changes it. -/
def Obligations.BusyLifeCycle : Prop :=
  (∀ (s t : State) (w : Word), hostWrite 0x000 4 w s = .ok t → t.status.busy = true) ∧
  (∀ (s t : State) (p : Pending), s.pending = some p → s.complete p = .next t → t.status.busy = false) ∧
  ∀ s t : State, s.Inv → step s = .next t → t.status.busy ≠ s.status.busy →
    s.issuedTo t ∨ s.completedTo t ∨ s.takesReset

/-- 10_state.md R30: DONE is cleared at the issue of every command, set at a completion that raised no core error, and stays
1 until the next issue or reset. -/
def Obligations.DoneLifeCycle : Prop :=
  (∀ (s t : State) (w : Word), hostWrite 0x000 4 w s = .ok t → t.status.done = false) ∧
  (∀ (s t : State) (p : Pending), s.Inv → s.pending = some p → s.complete p = .next t →
    t.status.done = !t.status.err) ∧
  ∀ s t : State, s.Inv → step s = .next t → s.status.done = true →
    t.status.done = true ∨ s.issuedTo t ∨ s.takesReset

/-- 10_state.md R31, 60_exceptions.md R249: ERR and ECODE are cleared at the issue of every command; at a completion they
report that command alone; they stay until the next issue or reset. -/
def Obligations.ErrorReportLifeCycle : Prop :=
  (∀ (s t : State) (w : Word), hostWrite 0x000 4 w s = .ok t → t.status.err = false ∧ t.status.ecode = 0) ∧
  (∀ (s t : State) (p : Pending), s.Inv → s.pending = some p → s.complete p = .next t →
    (t.status = ⟨false, true, false, 0⟩ ∨ t.status = ⟨false, false, true, 0x01⟩ ∨
      t.status = ⟨false, false, true, 0x02⟩ ∨ t.status = ⟨false, false, true, 0x03⟩) ∧
    (t.status.ecode = 0x01 ↔ ∃ e, decode p.word = .error e)) ∧
  ∀ s t : State, s.Inv → step s = .next t → s.status.err = true →
    (t.status.err = true ∧ t.status.ecode = s.status.ecode) ∨ s.issuedTo t ∨ s.takesReset

/-- 10_state.md R32 to R35: only these commands change these result registers, at their completion; apart from them only a
reset does. -/
def Obligations.ResultRegisterWriters : Prop :=
  ∀ s t : State, step s = .next t →
    ((t.dout ≠ s.dout ∨ t.doutDef ≠ s.doutDef) → s.takesReset ∨
      ∃ p i, s.pending = some p ∧ s.completes = true ∧ decode p.word = .ok i ∧
        i ∈ [Instr.enc, .dec, .feist, .sbox, .permIp, .permFp, .permE, .permP, .permPc1, .permPc2]) ∧
    ((t.hash ≠ s.hash ∨ t.hashDef ≠ s.hashDef) → s.takesReset ∨
      ∃ p, s.pending = some p ∧ s.completes = true ∧ decode p.word = .ok .tokenid) ∧
    ((t.price ≠ s.price ∨ t.priceDef ≠ s.priceDef) → s.takesReset ∨
      ∃ p i, s.pending = some p ∧ s.completes = true ∧ decode p.word = .ok i ∧ i ∈ [Instr.mintp, .burnr]) ∧
    ((t.rk ≠ s.rk ∨ t.rkDef ≠ s.rkDef) → s.takesReset ∨
      ∃ p i, s.pending = some p ∧ s.completes = true ∧ decode p.word = .ok i ∧ i ∈ [Instr.ksched, .enc, .dec])

/-- 10_state.md R23 to R26, 20_memory.md R60: the operand registers change only by the host's write of one of their words
while BUSY = 0, or by a reset; CMD only by an issue or a reset. No command changes either. -/
def Obligations.OperandAndCommandWriters : Prop :=
  ∀ s t : State, step s = .next t →
    (t.ops ≠ s.ops → s.takesReset ∨ (s.status.busy = false ∧
      ∃ off width v es u, s.events = .write off width v :: es ∧ wordAt off = some (.operand u) ∧
        t.ops = s.ops.write u v)) ∧
    (t.cmd ≠ s.cmd → s.takesReset ∨ (s.status.busy = false ∧
      ∃ width v es, s.events = .write 0x000 width v :: es ∧ t.cmd = v ∧ t.pending = some ⟨v, s.ops⟩))

/-- 20_memory.md R68: a step of one instance, and an access to one instance's window, leave every other as it is; steps of
different instances commute, and so do accesses to them, and an access to one with a step of another. The list of instances
is the model's (log 10). -/
def Obligations.InstancesCommute : Prop :=
  ∀ (p : Platform) (j k : Nat), j ≠ k →
    (p.stepInstance k).cores[j]? = p.cores[j]? ∧
    (p.stepInstance j).stepInstance k = (p.stepInstance k).stepInstance j ∧
    ∀ (a : BusAccess) (e : HostEvent), a.eventAt k = some e →
      (p.access a).cores[k]? = p.cores[k]?.map (fun s => { s with events := s.events ++ [e] }) ∧
      (p.access a).cores[j]? = p.cores[j]? ∧
      (p.access a).stepInstance j = (p.stepInstance j).access a ∧
      ∀ (b : BusAccess) (f : HostEvent), b.eventAt j = some f → (p.access a).access b = (p.access b).access a

/-! The host-side codec (not hardware, 00_scope.md R5). -/

/-- 45_host_codec.md R212, R213: the canonical ciphertext text reads back as the value it was made of. -/
def Obligations.CiphertextTextReadsBack : Prop :=
  ∀ d : BitVec 128, (ciphertextText d).length = 34 ∧ dinOfCiphertext (ciphertextText d) = .ok d

/-- 45_host_codec.md R215, R216: rendering and decoding are inverse on every byte sequence in which no backslash is followed
by `x`. (R217 claims more; the next statement.) -/
def Obligations.EscapeRoundTrip : Prop :=
  ∀ bs : List Byte, (¬ ∃ a b, bs = a ++ [0x5C, 0x78] ++ b) → decodeEscapes (renderBytes bs) = .ok bs

/-- 45_host_codec.md R217 as it is written: the round trip for every byte sequence that holds no backslash followed by `x`
and two hex-digit bytes. EXPECTED TO FAIL: on the bytes of `\xg1` R216 raises Invalid-Escape (95_test_vectors.md V72). -/
def Obligations.EscapeRoundTripAsWritten : Prop :=
  ∀ bs : List Byte,
    (¬ ∃ (a b : List Byte) (h1 h0 : Byte), (hexValue h1.toNat).isSome = true ∧ (hexValue h0.toNat).isSome = true ∧
      bs = a ++ [0x5C, 0x78, h1, h0] ++ b) →
    decodeEscapes (renderBytes bs) = .ok bs
end

