-- ==== Sys2Proof/Laws/Bits.lean ====
section
/-! SUPPORT. The laws of the datapath primitives: each says once, bit by bit, what a primitive does. -/

namespace Sys2Proof.Machine

/-- Bit `j` of a permuted value is the source bit its table entry names (40_bitvector.md R100). -/
theorem permute_getLsbD {n m : Nat} (t : List Nat) (ht : t.length = m) (v : BitVec n) (j : Nat) :
    (permute m t v).getLsbD j = (decide (j < m) && pos v (t.getD (m - 1 - j) (n + 1))) := by
  subst ht
  by_cases h : j < t.length
  · simp [permute, h, List.getD_eq_getElem?_getD,
      List.getElem?_eq_getElem (show t.length - 1 - j < t.length by omega)]
  · simp [permute, h]

/-- A bit of a rotated value (40_bitvector.md R102). -/
theorem rotl_getLsbD {w : Nat} (v : BitVec w) (n j : Nat) (hj : j < w) :
    (rotl v n).getLsbD j = v.getLsbD ((j + (w - n % w)) % w) := by
  have hw : 0 < w := by omega
  have hs : n % w < w := Nat.mod_lt _ hw
  simp only [rotl, BitVec.getLsbD_or, BitVec.getLsbD_shiftLeft, BitVec.getLsbD_ushiftRight, hj, decide_true,
    Bool.true_and]
  by_cases h : j < n % w
  · rw [Nat.mod_eq_of_lt (by omega : j + (w - n % w) < w)]
    simp [h, Nat.add_comm]
  · rw [show j + (w - n % w) = (j - n % w) + w by omega, Nat.add_mod_right,
      Nat.mod_eq_of_lt (by omega : j - n % w < w)]
    rw [BitVec.getLsbD_of_ge v _ (by omega : w ≤ w - n % w + j)]
    simp [h]

/-- A bit of a word of a wide register (20_memory.md R51). -/
theorem getWord_getLsbD {w : Nat} (v : BitVec w) (k j : Nat) :
    (getWord v k).getLsbD j = (decide (j < 32) && v.getLsbD (32 * k + j)) := by
  simp [getWord, BitVec.getLsbD_extractLsb']

/-- A bit of the mask of word `k`. -/
theorem wordMask_getLsbD (w k j : Nat) :
    ((BitVec.allOnes 32).setWidth w <<< (32 * k)).getLsbD j =
      decide (j < w ∧ 32 * k ≤ j ∧ j < 32 * k + 32) := by
  rw [BitVec.getLsbD_shiftLeft, BitVec.getLsbD_setWidth, BitVec.getLsbD_allOnes]
  rw [Bool.eq_iff_iff]
  simp only [Bool.and_eq_true, Bool.not_eq_true', decide_eq_true_eq, decide_eq_false_iff_not]
  omega

/-- A bit of a wide register after a word write: inside the word the new bit, outside it the old (20_memory.md R61). -/
theorem setWord_getLsbD {w : Nat} (v : BitVec w) (k : Nat) (x : Word) (j : Nat) :
    (setWord v k x).getLsbD j =
      if 32 * k ≤ j ∧ j < 32 * k + 32 then decide (j < w) && x.getLsbD (j - 32 * k) else v.getLsbD j := by
  rw [setWord, BitVec.getLsbD_or, BitVec.getLsbD_and, BitVec.getLsbD_not, wordMask_getLsbD, BitVec.getLsbD_shiftLeft,
    BitVec.getLsbD_setWidth]
  by_cases hw : j < w
  · by_cases hin : 32 * k ≤ j ∧ j < 32 * k + 32
    · simp [hw, hin, show ¬ j < 32 * k by omega, show j - 32 * k < w by omega]
    · rcases Nat.lt_or_ge j (32 * k) with h1 | h1
      · simp [hw, hin, h1]
      · simp [hw, hin, BitVec.getLsbD_of_ge x _ (by omega : 32 ≤ j - 32 * k)]
  · simp [BitVec.getLsbD_of_ge v j (by omega), hw]

/-- Reading the word just written gives it (20_memory.md R60). -/
theorem getWord_setWord_same {w : Nat} (v : BitVec w) (k : Nat) (x : Word) (hk : 32 * k + 32 ≤ w) :
    getWord (setWord v k x) k = x := by
  apply BitVec.eq_of_getLsbD_eq
  intro j hj
  rw [getWord_getLsbD, setWord_getLsbD]
  simp [hj, show 32 * k + j < w by omega]

/-- Reading another word gives what it gave before (20_memory.md R60). -/
theorem getWord_setWord_other {w : Nat} (v : BitVec w) (k l : Nat) (x : Word) (hkl : k ≠ l) :
    getWord (setWord v k x) l = getWord v l := by
  apply BitVec.eq_of_getLsbD_eq
  intro j hj
  rw [getWord_getLsbD, setWord_getLsbD, getWord_getLsbD]
  rw [if_neg (by omega)]

/-- A definedness bit after one was set (10_state.md R37). -/
theorem setBit_getLsbD {w : Nat} (v : BitVec w) (k j : Nat) (hk : k < w) :
    (setBit v k).getLsbD j = (v.getLsbD j || decide (j = k)) := by
  by_cases h : j = k
  · subst h; simp [setBit, hk]
  · have : (1#w <<< k).getLsbD j = false := by
      rw [BitVec.getLsbD_shiftLeft]
      rcases Nat.lt_or_ge j k with h1 | h1
      · simp [h1]
      · simp [BitVec.getLsbD_one, show j - k ≠ 0 by omega]
    simp [setBit, this, h]

/-- A byte sequence has as many bytes as were asked for. -/
theorem bytesBe_length {w : Nat} (v : BitVec w) (k : Nat) : (bytesBe v k).length = k := by
  simp [bytesBe]

/-- A little-endian byte sequence has as many bytes as were asked for. -/
theorem bytesLe_length {w : Nat} (v : BitVec w) (k : Nat) : (bytesLe v k).length = k := by
  simp [bytesLe]

end Sys2Proof.Machine
end

