-- ==== Sys2Proof/Laws/Feistel.lean ====
section
/-! SUPPORT. What the S-box layer answers, nibble by nibble (42_feistel.md R144 to R146). -/

namespace Sys2Proof.Machine

/-- The row of a group is its first and its last bit (42_feistel.md R145). -/
theorem sboxRow_eq (g : BitVec 6) : sboxRow g = 2 * (g.getLsbD 5).toNat + (g.getLsbD 0).toNat := by
  revert g; decide +kernel

/-- Every entry of an S-box fits a nibble (42_feistel.md R143). -/
theorem sboxEntry_lt {b k : Nat} (hb : b < 8) (hk : k < 64) : (sboxes.getD b []).getD k 0 < 16 := by
  have all : ∀ b < 8, ∀ k < 64, (sboxes.getD b []).getD k 0 < 16 := by decide +kernel
  exact all b hb k hk

/-- Nibble `i` is the entry of S-box `i` at the row and column of its group, in the raw bits of the input
(42_feistel.md R144 to R146). -/
theorem sboxNibble_toNat (x : BitVec 48) {i : Nat} (h1 : 1 ≤ i) (h8 : i ≤ 8) :
    (sboxNibble x i).toNat =
      (sboxes.getD (i - 1) []).getD
        (16 * (2 * (x.getLsbD (48 - 6 * i + 5)).toNat + (x.getLsbD (48 - 6 * i)).toNat) +
          (x.extractLsb' (48 - 6 * i + 1) 4).toNat) 0 := by
  have hrow : sboxRow (sboxGroup x i) =
      2 * (x.getLsbD (48 - 6 * i + 5)).toNat + (x.getLsbD (48 - 6 * i)).toNat := by
    rw [sboxRow_eq]; simp [sboxGroup]
  have hcol : sboxCol (sboxGroup x i) = (x.extractLsb' (48 - 6 * i + 1) 4).toNat := by
    unfold sboxCol sboxGroup
    congr 1
    apply BitVec.eq_of_getLsbD_eq
    intro j hj
    simp only [BitVec.getLsbD_extractLsb', hj, show 1 + j < 6 by omega, decide_true, Bool.true_and, Nat.add_assoc]
  have hlt : 16 * sboxRow (sboxGroup x i) + sboxCol (sboxGroup x i) < 64 := by
    have hr : sboxRow (sboxGroup x i) < 4 := (BitVec.isLt _ : _ < 2 ^ 2)
    have hc : sboxCol (sboxGroup x i) < 16 := (BitVec.isLt _ : _ < 2 ^ 4)
    omega
  unfold sboxNibble sboxEntry
  rw [BitVec.toNat_ofNat, Nat.mod_eq_of_lt (sboxEntry_lt (by omega) hlt), hrow, hcol]

/-- Nibble `k` of eight nibbles joined, the last the least significant. -/
theorem nibbles_getLsbD (a b c d e f g h : BitVec 4) {j k : Nat} (hj : j < 4) (hk : k < 8) :
    (a ++ b ++ c ++ d ++ e ++ f ++ g ++ h).getLsbD (4 * k + j) =
      ([h, g, f, e, d, c, b, a].getD k 0).getLsbD j := by
  interval_cases k <;> interval_cases j <;>
    simp only [BitVec.getLsbD_append, List.getD_cons_zero, List.getD_cons_succ] <;> rfl

/-- The S-box layer is the layer of its eight lookups (42_feistel.md R146). -/
theorem sBoxLayer_isSBoxLayer (x : BitVec 48) : isSBoxLayer x (sBoxLayer x) := by
  intro i h1 h8
  rw [← sboxNibble_toNat x h1 h8]
  congr 1
  apply BitVec.eq_of_getLsbD_eq
  intro j hj
  rw [BitVec.getLsbD_extractLsb', show 32 - 4 * i + j = 4 * (8 - i) + j by omega, sBoxLayer,
    nibbles_getLsbD _ _ _ _ _ _ _ _ hj (by omega)]
  interval_cases i <;> simp [hj]

end Sys2Proof.Machine
end

