-- ==== Sys2Proof/Laws/State.lean ====
section
/-! SUPPORT. One lemma per field per named update of the state, so that no proof unfolds a record update. -/

namespace Sys2Proof.Machine

/-! A result write. -/

@[simp] theorem State.writeResult_ops (s : State) (r : Result) :
    (s.writeResult r).ops = s.ops := by
  cases r <;> rfl

@[simp] theorem State.writeResult_cmd (s : State) (r : Result) :
    (s.writeResult r).cmd = s.cmd := by
  cases r <;> rfl

@[simp] theorem State.writeResult_status (s : State) (r : Result) :
    (s.writeResult r).status = s.status := by
  cases r <;> rfl

@[simp] theorem State.writeResult_pending (s : State) (r : Result) :
    (s.writeResult r).pending = s.pending := by
  cases r <;> rfl

@[simp] theorem State.writeResult_fault (s : State) (r : Result) :
    (s.writeResult r).fault = s.fault := by
  cases r <;> rfl

@[simp] theorem State.writeResult_events (s : State) (r : Result) :
    (s.writeResult r).events = s.events := by
  cases r <;> rfl

@[simp] theorem State.writeResult_returned (s : State) (r : Result) :
    (s.writeResult r).returned = s.returned := by
  cases r <;> rfl

@[simp] theorem State.writeResult_wait (s : State) (r : Result) :
    (s.writeResult r).wait = s.wait := by
  cases r <;> rfl

@[simp] theorem State.writeResult_issues (s : State) (r : Result) :
    (s.writeResult r).issues = s.issues := by
  cases r <;> rfl

@[simp] theorem State.writeResult_schedule_dout (s : State) (rk : Vector Subkey 16) :
    (s.writeResult (.schedule rk)).dout = s.dout := rfl

@[simp] theorem State.writeResult_schedule_hash (s : State) (rk : Vector Subkey 16) :
    (s.writeResult (.schedule rk)).hash = s.hash := rfl

@[simp] theorem State.writeResult_schedule_price (s : State) (rk : Vector Subkey 16) :
    (s.writeResult (.schedule rk)).price = s.price := rfl

@[simp] theorem State.writeResult_schedule_rk (s : State) (rk : Vector Subkey 16) :
    (s.writeResult (.schedule rk)).rk = rk := rfl

@[simp] theorem State.writeResult_schedule_doutDef (s : State) (rk : Vector Subkey 16) :
    (s.writeResult (.schedule rk)).doutDef = s.doutDef := rfl

@[simp] theorem State.writeResult_schedule_hashDef (s : State) (rk : Vector Subkey 16) :
    (s.writeResult (.schedule rk)).hashDef = s.hashDef := rfl

@[simp] theorem State.writeResult_schedule_priceDef (s : State) (rk : Vector Subkey 16) :
    (s.writeResult (.schedule rk)).priceDef = s.priceDef := rfl

@[simp] theorem State.writeResult_schedule_rkDef (s : State) (rk : Vector Subkey 16) :
    (s.writeResult (.schedule rk)).rkDef = BitVec.allOnes 32 := rfl

@[simp] theorem State.writeResult_cipher_dout (s : State) (rk : Vector Subkey 16) (d : BitVec 128) :
    (s.writeResult (.cipher rk d)).dout = d := rfl

@[simp] theorem State.writeResult_cipher_hash (s : State) (rk : Vector Subkey 16) (d : BitVec 128) :
    (s.writeResult (.cipher rk d)).hash = s.hash := rfl

@[simp] theorem State.writeResult_cipher_price (s : State) (rk : Vector Subkey 16) (d : BitVec 128) :
    (s.writeResult (.cipher rk d)).price = s.price := rfl

@[simp] theorem State.writeResult_cipher_rk (s : State) (rk : Vector Subkey 16) (d : BitVec 128) :
    (s.writeResult (.cipher rk d)).rk = rk := rfl

@[simp] theorem State.writeResult_cipher_doutDef (s : State) (rk : Vector Subkey 16) (d : BitVec 128) :
    (s.writeResult (.cipher rk d)).doutDef = BitVec.allOnes 4 := rfl

@[simp] theorem State.writeResult_cipher_hashDef (s : State) (rk : Vector Subkey 16) (d : BitVec 128) :
    (s.writeResult (.cipher rk d)).hashDef = s.hashDef := rfl

@[simp] theorem State.writeResult_cipher_priceDef (s : State) (rk : Vector Subkey 16) (d : BitVec 128) :
    (s.writeResult (.cipher rk d)).priceDef = s.priceDef := rfl

@[simp] theorem State.writeResult_cipher_rkDef (s : State) (rk : Vector Subkey 16) (d : BitVec 128) :
    (s.writeResult (.cipher rk d)).rkDef = BitVec.allOnes 32 := rfl

@[simp] theorem State.writeResult_data_dout (s : State) (d : BitVec 128) :
    (s.writeResult (.data d)).dout = d := rfl

@[simp] theorem State.writeResult_data_hash (s : State) (d : BitVec 128) :
    (s.writeResult (.data d)).hash = s.hash := rfl

@[simp] theorem State.writeResult_data_price (s : State) (d : BitVec 128) :
    (s.writeResult (.data d)).price = s.price := rfl

@[simp] theorem State.writeResult_data_rk (s : State) (d : BitVec 128) :
    (s.writeResult (.data d)).rk = s.rk := rfl

@[simp] theorem State.writeResult_data_doutDef (s : State) (d : BitVec 128) :
    (s.writeResult (.data d)).doutDef = BitVec.allOnes 4 := rfl

@[simp] theorem State.writeResult_data_hashDef (s : State) (d : BitVec 128) :
    (s.writeResult (.data d)).hashDef = s.hashDef := rfl

@[simp] theorem State.writeResult_data_priceDef (s : State) (d : BitVec 128) :
    (s.writeResult (.data d)).priceDef = s.priceDef := rfl

@[simp] theorem State.writeResult_data_rkDef (s : State) (d : BitVec 128) :
    (s.writeResult (.data d)).rkDef = s.rkDef := rfl

@[simp] theorem State.writeResult_digest_dout (s : State) (h : BitVec 256) :
    (s.writeResult (.digest h)).dout = s.dout := rfl

@[simp] theorem State.writeResult_digest_hash (s : State) (h : BitVec 256) :
    (s.writeResult (.digest h)).hash = h := rfl

@[simp] theorem State.writeResult_digest_price (s : State) (h : BitVec 256) :
    (s.writeResult (.digest h)).price = s.price := rfl

@[simp] theorem State.writeResult_digest_rk (s : State) (h : BitVec 256) :
    (s.writeResult (.digest h)).rk = s.rk := rfl

@[simp] theorem State.writeResult_digest_doutDef (s : State) (h : BitVec 256) :
    (s.writeResult (.digest h)).doutDef = s.doutDef := rfl

@[simp] theorem State.writeResult_digest_hashDef (s : State) (h : BitVec 256) :
    (s.writeResult (.digest h)).hashDef = BitVec.allOnes 8 := rfl

@[simp] theorem State.writeResult_digest_priceDef (s : State) (h : BitVec 256) :
    (s.writeResult (.digest h)).priceDef = s.priceDef := rfl

@[simp] theorem State.writeResult_digest_rkDef (s : State) (h : BitVec 256) :
    (s.writeResult (.digest h)).rkDef = s.rkDef := rfl

@[simp] theorem State.writeResult_price_dout (s : State) (p : BitVec 256) :
    (s.writeResult (.price p)).dout = s.dout := rfl

@[simp] theorem State.writeResult_price_hash (s : State) (p : BitVec 256) :
    (s.writeResult (.price p)).hash = s.hash := rfl

@[simp] theorem State.writeResult_price_price (s : State) (p : BitVec 256) :
    (s.writeResult (.price p)).price = p := rfl

@[simp] theorem State.writeResult_price_rk (s : State) (p : BitVec 256) :
    (s.writeResult (.price p)).rk = s.rk := rfl

@[simp] theorem State.writeResult_price_doutDef (s : State) (p : BitVec 256) :
    (s.writeResult (.price p)).doutDef = s.doutDef := rfl

@[simp] theorem State.writeResult_price_hashDef (s : State) (p : BitVec 256) :
    (s.writeResult (.price p)).hashDef = s.hashDef := rfl

@[simp] theorem State.writeResult_price_priceDef (s : State) (p : BitVec 256) :
    (s.writeResult (.price p)).priceDef = BitVec.allOnes 8 := rfl

@[simp] theorem State.writeResult_price_rkDef (s : State) (p : BitVec 256) :
    (s.writeResult (.price p)).rkDef = s.rkDef := rfl

/-! The end of a command without error. -/

@[simp] theorem State.finishDone_ops (s : State) :
    (s.finishDone).ops = s.ops := rfl

@[simp] theorem State.finishDone_cmd (s : State) :
    (s.finishDone).cmd = s.cmd := rfl

@[simp] theorem State.finishDone_status (s : State) :
    (s.finishDone).status = s.status.atDone := rfl

@[simp] theorem State.finishDone_dout (s : State) :
    (s.finishDone).dout = s.dout := rfl

@[simp] theorem State.finishDone_hash (s : State) :
    (s.finishDone).hash = s.hash := rfl

@[simp] theorem State.finishDone_price (s : State) :
    (s.finishDone).price = s.price := rfl

@[simp] theorem State.finishDone_rk (s : State) :
    (s.finishDone).rk = s.rk := rfl

@[simp] theorem State.finishDone_doutDef (s : State) :
    (s.finishDone).doutDef = s.doutDef := rfl

@[simp] theorem State.finishDone_hashDef (s : State) :
    (s.finishDone).hashDef = s.hashDef := rfl

@[simp] theorem State.finishDone_priceDef (s : State) :
    (s.finishDone).priceDef = s.priceDef := rfl

@[simp] theorem State.finishDone_rkDef (s : State) :
    (s.finishDone).rkDef = s.rkDef := rfl

@[simp] theorem State.finishDone_pending (s : State) :
    (s.finishDone).pending = none := rfl

@[simp] theorem State.finishDone_fault (s : State) :
    (s.finishDone).fault = s.fault := rfl

@[simp] theorem State.finishDone_events (s : State) :
    (s.finishDone).events = s.events := rfl

@[simp] theorem State.finishDone_returned (s : State) :
    (s.finishDone).returned = s.returned := rfl

@[simp] theorem State.finishDone_wait (s : State) :
    (s.finishDone).wait = 0 := rfl

@[simp] theorem State.finishDone_issues (s : State) :
    (s.finishDone).issues = s.issues := rfl

/-! A core error. -/

@[simp] theorem State.raiseCoreError_ops (s : State) (e : CoreError) :
    (s.raiseCoreError e).ops = s.ops := rfl

@[simp] theorem State.raiseCoreError_cmd (s : State) (e : CoreError) :
    (s.raiseCoreError e).cmd = s.cmd := rfl

@[simp] theorem State.raiseCoreError_status (s : State) (e : CoreError) :
    (s.raiseCoreError e).status = s.status.atError e := rfl

@[simp] theorem State.raiseCoreError_dout (s : State) (e : CoreError) :
    (s.raiseCoreError e).dout = s.dout := rfl

@[simp] theorem State.raiseCoreError_hash (s : State) (e : CoreError) :
    (s.raiseCoreError e).hash = s.hash := rfl

@[simp] theorem State.raiseCoreError_price (s : State) (e : CoreError) :
    (s.raiseCoreError e).price = s.price := rfl

@[simp] theorem State.raiseCoreError_rk (s : State) (e : CoreError) :
    (s.raiseCoreError e).rk = s.rk := rfl

@[simp] theorem State.raiseCoreError_doutDef (s : State) (e : CoreError) :
    (s.raiseCoreError e).doutDef = s.doutDef := rfl

@[simp] theorem State.raiseCoreError_hashDef (s : State) (e : CoreError) :
    (s.raiseCoreError e).hashDef = s.hashDef := rfl

@[simp] theorem State.raiseCoreError_priceDef (s : State) (e : CoreError) :
    (s.raiseCoreError e).priceDef = s.priceDef := rfl

@[simp] theorem State.raiseCoreError_rkDef (s : State) (e : CoreError) :
    (s.raiseCoreError e).rkDef = s.rkDef := rfl

@[simp] theorem State.raiseCoreError_pending (s : State) (e : CoreError) :
    (s.raiseCoreError e).pending = none := rfl

@[simp] theorem State.raiseCoreError_fault (s : State) (e : CoreError) :
    (s.raiseCoreError e).fault = s.fault := rfl

@[simp] theorem State.raiseCoreError_events (s : State) (e : CoreError) :
    (s.raiseCoreError e).events = s.events := rfl

@[simp] theorem State.raiseCoreError_returned (s : State) (e : CoreError) :
    (s.raiseCoreError e).returned = s.returned := rfl

@[simp] theorem State.raiseCoreError_wait (s : State) (e : CoreError) :
    (s.raiseCoreError e).wait = 0 := rfl

@[simp] theorem State.raiseCoreError_issues (s : State) (e : CoreError) :
    (s.raiseCoreError e).issues = s.issues := rfl

/-! A host fault. -/

@[simp] theorem State.raiseHostFault_ops (s : State) (r : HostFault) :
    (s.raiseHostFault r).ops = s.ops := rfl

@[simp] theorem State.raiseHostFault_cmd (s : State) (r : HostFault) :
    (s.raiseHostFault r).cmd = s.cmd := rfl

@[simp] theorem State.raiseHostFault_status (s : State) (r : HostFault) :
    (s.raiseHostFault r).status = s.status := rfl

@[simp] theorem State.raiseHostFault_dout (s : State) (r : HostFault) :
    (s.raiseHostFault r).dout = s.dout := rfl

@[simp] theorem State.raiseHostFault_hash (s : State) (r : HostFault) :
    (s.raiseHostFault r).hash = s.hash := rfl

@[simp] theorem State.raiseHostFault_price (s : State) (r : HostFault) :
    (s.raiseHostFault r).price = s.price := rfl

@[simp] theorem State.raiseHostFault_rk (s : State) (r : HostFault) :
    (s.raiseHostFault r).rk = s.rk := rfl

@[simp] theorem State.raiseHostFault_doutDef (s : State) (r : HostFault) :
    (s.raiseHostFault r).doutDef = s.doutDef := rfl

@[simp] theorem State.raiseHostFault_hashDef (s : State) (r : HostFault) :
    (s.raiseHostFault r).hashDef = s.hashDef := rfl

@[simp] theorem State.raiseHostFault_priceDef (s : State) (r : HostFault) :
    (s.raiseHostFault r).priceDef = s.priceDef := rfl

@[simp] theorem State.raiseHostFault_rkDef (s : State) (r : HostFault) :
    (s.raiseHostFault r).rkDef = s.rkDef := rfl

@[simp] theorem State.raiseHostFault_pending (s : State) (r : HostFault) :
    (s.raiseHostFault r).pending = s.pending := rfl

@[simp] theorem State.raiseHostFault_fault (s : State) (r : HostFault) :
    (s.raiseHostFault r).fault = some r := rfl

@[simp] theorem State.raiseHostFault_events (s : State) (r : HostFault) :
    (s.raiseHostFault r).events = s.events := rfl

@[simp] theorem State.raiseHostFault_returned (s : State) (r : HostFault) :
    (s.raiseHostFault r).returned = s.returned := rfl

@[simp] theorem State.raiseHostFault_wait (s : State) (r : HostFault) :
    (s.raiseHostFault r).wait = s.wait := rfl

@[simp] theorem State.raiseHostFault_issues (s : State) (r : HostFault) :
    (s.raiseHostFault r).issues = s.issues := rfl

/-! A command put in flight. -/

@[simp] theorem State.launch_ops (s : State) (w : Word) :
    (s.launch w).ops = s.ops := rfl

@[simp] theorem State.launch_cmd (s : State) (w : Word) :
    (s.launch w).cmd = s.cmd := rfl

@[simp] theorem State.launch_status (s : State) (w : Word) :
    (s.launch w).status = s.status.atIssue := rfl

@[simp] theorem State.launch_dout (s : State) (w : Word) :
    (s.launch w).dout = s.dout := rfl

@[simp] theorem State.launch_hash (s : State) (w : Word) :
    (s.launch w).hash = s.hash := rfl

@[simp] theorem State.launch_price (s : State) (w : Word) :
    (s.launch w).price = s.price := rfl

@[simp] theorem State.launch_rk (s : State) (w : Word) :
    (s.launch w).rk = s.rk := rfl

@[simp] theorem State.launch_doutDef (s : State) (w : Word) :
    (s.launch w).doutDef = s.doutDef := rfl

@[simp] theorem State.launch_hashDef (s : State) (w : Word) :
    (s.launch w).hashDef = s.hashDef := rfl

@[simp] theorem State.launch_priceDef (s : State) (w : Word) :
    (s.launch w).priceDef = s.priceDef := rfl

@[simp] theorem State.launch_rkDef (s : State) (w : Word) :
    (s.launch w).rkDef = s.rkDef := rfl

@[simp] theorem State.launch_pending (s : State) (w : Word) :
    (s.launch w).pending = some ⟨w, s.ops⟩ := rfl

@[simp] theorem State.launch_fault (s : State) (w : Word) :
    (s.launch w).fault = s.fault := rfl

@[simp] theorem State.launch_events (s : State) (w : Word) :
    (s.launch w).events = s.events := rfl

@[simp] theorem State.launch_returned (s : State) (w : Word) :
    (s.launch w).returned = s.returned := rfl

@[simp] theorem State.launch_wait (s : State) (w : Word) :
    (s.launch w).wait = Config.latency s.issues := rfl

@[simp] theorem State.launch_issues (s : State) (w : Word) :
    (s.launch w).issues = s.issues + 1 := rfl

/-! A core reset. -/

@[simp] theorem State.coreReset_ops (s : State) :
    (s.coreReset).ops = Operands.reset := rfl

@[simp] theorem State.coreReset_cmd (s : State) :
    (s.coreReset).cmd = 0 := rfl

@[simp] theorem State.coreReset_status (s : State) :
    (s.coreReset).status = ⟨false, false, false, 0⟩ := rfl

@[simp] theorem State.coreReset_dout (s : State) :
    (s.coreReset).dout = 0 := rfl

@[simp] theorem State.coreReset_hash (s : State) :
    (s.coreReset).hash = 0 := rfl

@[simp] theorem State.coreReset_price (s : State) :
    (s.coreReset).price = 0 := rfl

@[simp] theorem State.coreReset_rk (s : State) :
    (s.coreReset).rk = State.reset.rk := rfl

@[simp] theorem State.coreReset_doutDef (s : State) :
    (s.coreReset).doutDef = 0 := rfl

@[simp] theorem State.coreReset_hashDef (s : State) :
    (s.coreReset).hashDef = 0 := rfl

@[simp] theorem State.coreReset_priceDef (s : State) :
    (s.coreReset).priceDef = 0 := rfl

@[simp] theorem State.coreReset_rkDef (s : State) :
    (s.coreReset).rkDef = 0 := rfl

@[simp] theorem State.coreReset_pending (s : State) :
    (s.coreReset).pending = none := rfl

@[simp] theorem State.coreReset_fault (s : State) :
    (s.coreReset).fault = s.fault := rfl

@[simp] theorem State.coreReset_events (s : State) :
    (s.coreReset).events = s.events := rfl

@[simp] theorem State.coreReset_returned (s : State) :
    (s.coreReset).returned = s.returned := rfl

@[simp] theorem State.coreReset_wait (s : State) :
    (s.coreReset).wait = 0 := rfl

@[simp] theorem State.coreReset_issues (s : State) :
    (s.coreReset).issues = s.issues := rfl

/-! The STATUS updates. -/

@[simp] theorem Status.atIssue_busy (st : Status) :
    (st.atIssue).busy = true := rfl

@[simp] theorem Status.atIssue_done (st : Status) :
    (st.atIssue).done = false := rfl

@[simp] theorem Status.atIssue_err (st : Status) :
    (st.atIssue).err = false := rfl

@[simp] theorem Status.atIssue_ecode (st : Status) :
    (st.atIssue).ecode = 0 := rfl

@[simp] theorem Status.atDone_busy (st : Status) :
    (st.atDone).busy = false := rfl

@[simp] theorem Status.atDone_done (st : Status) :
    (st.atDone).done = true := rfl

@[simp] theorem Status.atDone_err (st : Status) :
    (st.atDone).err = false := rfl

@[simp] theorem Status.atDone_ecode (st : Status) :
    (st.atDone).ecode = 0 := rfl

@[simp] theorem Status.atError_busy (st : Status) (e : CoreError) :
    (st.atError e).busy = false := rfl

@[simp] theorem Status.atError_done (st : Status) (e : CoreError) :
    (st.atError e).done = st.done := rfl

@[simp] theorem Status.atError_err (st : Status) (e : CoreError) :
    (st.atError e).err = true := rfl

@[simp] theorem Status.atError_ecode (st : Status) (e : CoreError) :
    (st.atError e).ecode = e.code := rfl

end Sys2Proof.Machine
end

