-- ==== Sys2Proof/Laws/Ops.lean ====
section
/-! SUPPORT. What each shared operation can do, said once: the proofs about instructions and steps cite these lemmas and do
not unfold the operations. -/

namespace Sys2Proof.Machine

/-- The rule of each command as a function of the operands alone (10_state.md R22). -/
def resultOf : Instr → Operands → Except CoreError Result
  | .ksched => kschedResult
  | .enc => encResult
  | .dec => decResult
  | .feist => feistResult
  | .sbox => sboxResult
  | .permIp => permResult 64 64 tableIP
  | .permFp => permResult 64 64 tableFP
  | .permE => permResult 32 48 tableE
  | .permP => permResult 32 32 tableP
  | .permPc1 => permResult 64 56 tablePC1
  | .permPc2 => permResult 56 48 tablePC2
  | .tokenid => tokenidResult
  | .mintp => mintpResult
  | .burnr => burnrResult

/-- Every meaning is the shared completion of its command's rule. -/
theorem exec_eq_runCommand (i : Instr) (s : State) : exec i s = runCommand (resultOf i) s := by
  cases i <;> rfl

/-- The completion with a command in flight. -/
theorem runCommand_of_pending (f : Operands → Except CoreError Result) (s : State) (p : Pending)
    (h : s.pending = some p) : runCommand f s = .next (s.finish (f p.snap)) := by
  simp [runCommand, h]

/-- The completion with none in flight. -/
theorem runCommand_of_idle (f : Operands → Except CoreError Result) (s : State) (h : s.pending = none) :
    runCommand f s = .fault .noCommandInFlight := by
  simp [runCommand, h]

/-- If a completion answers a next state, a command was in flight, and the state is its end. -/
theorem runCommand_next {f : Operands → Except CoreError Result} {s t : State} (h : runCommand f s = .next t) :
    ∃ p, s.pending = some p ∧ t = s.finish (f p.snap) := by
  cases hp : s.pending with
  | none => simp [runCommand, hp] at h
  | some p => exact ⟨p, rfl, by simpa [runCommand, hp] using h.symm⟩

/-- A meaning with a command in flight ends it. -/
theorem exec_of_pending (i : Instr) (s : State) (p : Pending) (h : s.pending = some p) :
    exec i s = .next (s.finish (resultOf i p.snap)) := by
  rw [exec_eq_runCommand, runCommand_of_pending _ _ _ h]

/-- If a meaning answers a next state, a command was in flight, and the state is its end. -/
theorem exec_next {i : Instr} {s t : State} (h : exec i s = .next t) :
    ∃ p, s.pending = some p ∧ t = s.finish (resultOf i p.snap) :=
  runCommand_next (exec_eq_runCommand i s ▸ h)

/-- The end of a command that gave a result. -/
@[simp] theorem State.finish_ok (s : State) (r : Result) : s.finish (.ok r) = (s.writeResult r).finishDone := rfl

/-- The end of a command that raised a core error. -/
@[simp] theorem State.finish_error (s : State) (e : CoreError) : s.finish (.error e) = s.raiseCoreError e := rfl

/-- A checked value is itself, or the error is OVERFLOW (44_identity_economics.md R192). -/
theorem checked_cases (n : Nat) :
    (n ≤ maxPrice ∧ checked n = .ok n) ∨ (maxPrice < n ∧ checked n = .error .overflow) := by
  unfold checked
  split
  · exact .inr ⟨by omega, rfl⟩
  · exact .inl ⟨by omega, rfl⟩

/-- A mint price is its sum, or OVERFLOW where a value exceeds MAXP (44_identity_economics.md R191, R192). -/
theorem mintPrice_cases (n : Nat) :
    (coefficient * n ≤ maxPrice ∧ basePrice + coefficient * n ≤ maxPrice ∧
        mintPrice n = .ok (basePrice + coefficient * n)) ∨
      ((maxPrice < coefficient * n ∨ maxPrice < basePrice + coefficient * n) ∧ mintPrice n = .error .overflow) := by
  unfold mintPrice
  rcases checked_cases (coefficient * n) with ⟨h1, e1⟩ | ⟨h1, e1⟩
  · rcases checked_cases (basePrice + coefficient * n) with ⟨h2, e2⟩ | ⟨h2, e2⟩
    · exact .inl ⟨h1, h2, by rw [e1]; exact e2⟩
    · exact .inr ⟨.inr h2, by rw [e1]; exact e2⟩
  · exact .inr ⟨.inl h1, by rw [e1]; rfl⟩

/-- A burn reward is DOMAIN at 0, else its quotient, or OVERFLOW (44_identity_economics.md R193, R192). -/
theorem burnReward_cases (n : Nat) :
    (n = 0 ∧ burnReward n = .error .domain) ∨
      (n ≠ 0 ∧ ∃ m, mintPrice (n - 1) = .ok m ∧ m * rewardNumerator ≤ maxPrice ∧
        burnReward n = .ok (m * rewardNumerator / rewardDenominator)) ∨
      (n ≠ 0 ∧ mintPrice (n - 1) = .error .overflow ∧ burnReward n = .error .overflow) ∨
      (n ≠ 0 ∧ ∃ m, mintPrice (n - 1) = .ok m ∧ maxPrice < m * rewardNumerator ∧ burnReward n = .error .overflow) := by
  unfold burnReward
  by_cases hn : n = 0
  · exact .inl ⟨hn, if_pos hn⟩
  · right
    rw [if_neg hn]
    rcases mintPrice_cases (n - 1) with ⟨-, -, e1⟩ | ⟨-, e1⟩
    · rcases checked_cases ((basePrice + coefficient * (n - 1)) * rewardNumerator) with ⟨h2, e2⟩ | ⟨h2, e2⟩
      · exact .inl ⟨hn, _, e1, h2, by rw [e1]; show (checked _ >>= _) = _; rw [e2]; rfl⟩
      · exact .inr (.inr ⟨hn, _, e1, h2, by rw [e1]; show (checked _ >>= _) = _; rw [e2]; rfl⟩)
    · exact .inr (.inl ⟨hn, e1, by rw [e1]; rfl⟩)

/-- The results of each command with their values left abstract, so that no proof about which registers a command writes
looks at a cipher or a hash (30_encoding.md R85, 60_exceptions.md R242). -/
theorem resultOf_kind (i : Instr) (o : Operands) :
    (i = .ksched ∧ ∃ rk, resultOf i o = .ok (.schedule rk)) ∨
      (i ∈ [Instr.enc, .dec] ∧ ∃ rk d, resultOf i o = .ok (.cipher rk d)) ∨
      (i ∈ [Instr.feist, .sbox, .permIp, .permFp, .permE, .permP, .permPc1, .permPc2] ∧
        ∃ d, resultOf i o = .ok (.data d)) ∨
      (i = .tokenid ∧ ∃ h, resultOf i o = .ok (.digest h)) ∨
      (i ∈ [Instr.mintp, .burnr] ∧ ((∃ p, resultOf i o = .ok (.price p)) ∨
        ∃ e, e ≠ CoreError.illegalCmd ∧ resultOf i o = .error e)) := by
  have price (r : Except CoreError Nat) (h : r ≠ .error .illegalCmd) :
      (∃ p, priceResult r = .ok (.price p)) ∨ ∃ e, e ≠ CoreError.illegalCmd ∧ priceResult r = .error e := by
    cases r with
    | ok n => exact .inl ⟨_, rfl⟩
    | error e => exact .inr ⟨e, fun he => h (he ▸ rfl), rfl⟩
  cases i
  case ksched => exact .inl ⟨rfl, _, rfl⟩
  case enc => exact .inr (.inl ⟨by decide, _, _, rfl⟩)
  case dec => exact .inr (.inl ⟨by decide, _, _, rfl⟩)
  case tokenid => exact .inr (.inr (.inr (.inl ⟨rfl, _, rfl⟩)))
  case mintp =>
    refine .inr (.inr (.inr (.inr ⟨by decide, price (mintPrice o.supply.toNat) ?_⟩)))
    rcases mintPrice_cases o.supply.toNat with ⟨-, -, e⟩ | ⟨-, e⟩ <;> rw [e] <;> simp
  case burnr =>
    refine .inr (.inr (.inr (.inr ⟨by decide, price (burnReward o.supply.toNat) ?_⟩)))
    rcases burnReward_cases o.supply.toNat with ⟨-, e⟩ | ⟨-, m, -, -, e⟩ | ⟨-, -, e⟩ | ⟨-, m, -, -, e⟩ <;> rw [e] <;> simp
  all_goals exact .inr (.inr (.inl ⟨by decide, _, rfl⟩))

/-! What the end of a command leaves as it was, whatever its result. -/

@[simp] theorem State.finish_ops (s : State) (r : Except CoreError Result) : (s.finish r).ops = s.ops := by
  cases r <;> simp

@[simp] theorem State.finish_cmd (s : State) (r : Except CoreError Result) : (s.finish r).cmd = s.cmd := by
  cases r <;> simp

@[simp] theorem State.finish_pending (s : State) (r : Except CoreError Result) : (s.finish r).pending = none := by
  cases r <;> simp

@[simp] theorem State.finish_fault (s : State) (r : Except CoreError Result) : (s.finish r).fault = s.fault := by
  cases r <;> simp

@[simp] theorem State.finish_events (s : State) (r : Except CoreError Result) : (s.finish r).events = s.events := by
  cases r <;> simp

@[simp] theorem State.finish_returned (s : State) (r : Except CoreError Result) :
    (s.finish r).returned = s.returned := by
  cases r <;> simp

@[simp] theorem State.finish_wait (s : State) (r : Except CoreError Result) : (s.finish r).wait = 0 := by
  cases r <;> simp

@[simp] theorem State.finish_issues (s : State) (r : Except CoreError Result) : (s.finish r).issues = s.issues := by
  cases r <;> simp

@[simp] theorem State.finish_busy (s : State) (r : Except CoreError Result) : (s.finish r).status.busy = false := by
  cases r <;> rfl

/-- A command that ended with a core error wrote no result (60_exceptions.md R241). -/
theorem State.raiseCoreError_sameResults (s : State) (e : CoreError) : s.sameResults (s.raiseCoreError e) :=
  ⟨rfl, rfl, rfl, rfl, rfl, rfl, rfl, rfl⟩

/-- The completion of a word: the meaning of the command it decodes to. -/
theorem State.complete_of_decode {s : State} {p : Pending} {i : Instr} (h : Sys2Proof.decode p.word = .ok i) :
    s.complete p = exec i s := by
  simp [State.complete, h]

/-- The completion of an illegal word. -/
theorem State.complete_of_illegal {s : State} {p : Pending} {e : Illegal} (h : Sys2Proof.decode p.word = .error e) :
    s.complete p = .next s.finishIllegal := by
  simp [State.complete, h]

/-- A completion is the end of the command, whose rule looked at the snapshot only. -/
theorem State.complete_eq (s : State) (p : Pending) (h : s.pending = some p) :
    s.complete p = .next (s.finish (match Sys2Proof.decode p.word with
      | .ok i => resultOf i p.snap
      | .error _ => .error .illegalCmd)) := by
  unfold State.complete
  cases Sys2Proof.decode p.word with
  | ok i => simp [exec_of_pending i s p h]
  | error e => rfl

/-- What a step can do: end the command in flight, or take the host's turn. -/
theorem step_cases (s : State) :
    (∃ p, s.pending = some p ∧ s.completes = true ∧ step s = s.complete p) ∨
      (s.completes = false ∧ step s = .next s.hostTurn) := by
  cases hp : s.pending with
  | none => exact .inr ⟨by simp [State.completes, hp], by simp [step, State.advance, hp]⟩
  | some p =>
    cases hc : s.completes with
    | true => exact .inl ⟨p, rfl, rfl, by simp [step, State.advance, hp, hc]⟩
    | false => exact .inr ⟨rfl, by simp [step, State.advance, hp, hc]⟩

/-- The host's turn with no event to come. -/
theorem State.hostTurn_nil {s : State} (h : s.events = []) : s.hostTurn = s := by
  simp [State.hostTurn, h]

/-- The host's turn with an event to come. -/
theorem State.hostTurn_cons {s : State} {e : HostEvent} {es : List HostEvent} (h : s.events = e :: es) :
    s.hostTurn = State.event { s with events := es, wait := s.wait - 1 } e := by
  simp [State.hostTurn, h]

/-- If a host read answers a word, the access is well formed, not shut out by BUSY, and the word is defined. -/
theorem hostRead_ok {off width : Nat} {s : State} {v : Word} (h : hostRead off width s = .ok v) :
    ∃ x, checkAccess off width = .ok x ∧ (s.status.busy = true → x.readableBusy = true) ∧
      s.defined x = true ∧ v = s.word x := by
  unfold hostRead at h
  cases hc : checkAccess off width with
  | error r => simp [hc] at h
  | ok x =>
    simp only [hc] at h
    split at h
    · cases h
    · split at h
      · cases h
      · refine ⟨x, rfl, ?_, ?_, ?_⟩
        · intro hb; simp_all
        · simp_all
        · simpa using h.symm

/-- If an issue goes through, the command is in flight, and where the word is legal its operand words were defined. -/
theorem State.issue_ok {s t : State} {w : Word} (h : s.issue w = .ok t) :
    t = s.launch w ∧ ∀ i, Sys2Proof.decode w = .ok i → operandsDefined i s.ops = true := by
  unfold State.issue at h
  cases hd : Sys2Proof.decode w with
  | error e => simp only [hd, Except.ok.injEq] at h; exact ⟨h.symm, by simp⟩
  | ok i =>
    simp only [hd] at h
    split at h
    · next ho => exact ⟨by simpa using h.symm, by rintro j ⟨⟩; exact ho⟩
    · cases h

/-- If a host write goes through, the core was idle, and the write was of CMD, an issue, or of an operand word. -/
theorem hostWrite_ok {off width : Nat} {v : Word} {s t : State} (h : hostWrite off width v s = .ok t) :
    s.status.busy = false ∧
      ((checkAccess off width = .ok .cmd ∧ t = { s.launch v with cmd := v } ∧
          ∀ i, Sys2Proof.decode v = .ok i → operandsDefined i s.ops = true) ∨
        ∃ u, checkAccess off width = .ok (.operand u) ∧ t = { s with ops := s.ops.write u v }) := by
  unfold hostWrite at h
  cases hc : checkAccess off width with
  | error r => simp [hc] at h
  | ok x =>
    simp only [hc] at h
    split at h
    · cases h
    · split at h
      · cases h
      · next hro hb =>
        refine ⟨by simpa using hb, ?_⟩
        cases x with
        | cmd =>
          left
          cases hi : s.issue v with
          | error r => simp [State.writeWord, hi] at h
          | ok t' =>
            obtain ⟨rfl, hd⟩ := State.issue_ok hi
            exact ⟨rfl, by simpa [State.writeWord, hi] using h.symm, hd⟩
        | operand u => exact .inr ⟨u, rfl, by simpa [State.writeWord] using h.symm⟩
        | _ => simp [State.writeWord] at h

/-- What an event can do: return a word, set the fault mark, write, issue, or reset. -/
theorem State.event_cases (s : State) (e : HostEvent) :
    (∃ v, s.event e = { s with returned := v :: s.returned }) ∨ (∃ r, s.event e = s.raiseHostFault r) ∨
      (∃ off width u v, e = .write off width v ∧ s.status.busy = false ∧
        s.event e = { s with ops := s.ops.write u v }) ∨
      (∃ off width v, e = .write off width v ∧ s.status.busy = false ∧
        (∀ i, Sys2Proof.decode v = .ok i → operandsDefined i s.ops = true) ∧
        s.event e = { s.launch v with cmd := v }) ∨
      (e = .reset ∧ s.event e = s.coreReset) := by
  cases e with
  | reset => exact .inr (.inr (.inr (.inr ⟨rfl, rfl⟩)))
  | read off width =>
    cases h : hostRead off width s with
    | ok v => exact .inl ⟨v, by simp [State.event, h]⟩
    | error r => exact .inr (.inl ⟨r, by simp [State.event, h]⟩)
  | write off width v =>
    cases h : hostWrite off width v s with
    | error r => exact .inr (.inl ⟨r, by simp [State.event, h]⟩)
    | ok t =>
      obtain ⟨hb, ⟨-, rfl, hd⟩ | ⟨u, -, rfl⟩⟩ := hostWrite_ok h
      · exact .inr (.inr (.inr (.inl ⟨off, width, v, rfl, hb, hd, by simp [State.event, h]⟩)))
      · exact .inr (.inr (.inl ⟨off, width, u, v, rfl, hb, by simp [State.event, h]⟩))

end Sys2Proof.Machine
end

