-- ==== Sys2Proof/Laws/PerInstr.lean ====
section
/-! SUPPORT. The statement made of every instruction as syntax, one lemma per constructor. -/

/-- The fields of the command are well formed, with RES zero, and the encoder loses none of them: the fields of the word it
gives are the command's own (30_encoding.md R80 to R83). -/
def Sys2Proof.Laws.FieldsFit.Statement (i : Sys2Proof.Instr) : Prop :=
  i.fields.wellFormed = true ∧ i.fields.res = 0 ∧ Sys2Proof.CommandFields.ofWord (Sys2Proof.encode i) = i.fields

theorem Sys2Proof.Laws.FieldsFit.ksched : Sys2Proof.Laws.FieldsFit.Statement .ksched := by
  refine ⟨?_, ?_, ?_⟩ <;> decide

theorem Sys2Proof.Laws.FieldsFit.enc : Sys2Proof.Laws.FieldsFit.Statement .enc := by
  refine ⟨?_, ?_, ?_⟩ <;> decide

theorem Sys2Proof.Laws.FieldsFit.dec : Sys2Proof.Laws.FieldsFit.Statement .dec := by
  refine ⟨?_, ?_, ?_⟩ <;> decide

theorem Sys2Proof.Laws.FieldsFit.feist : Sys2Proof.Laws.FieldsFit.Statement .feist := by
  refine ⟨?_, ?_, ?_⟩ <;> decide

theorem Sys2Proof.Laws.FieldsFit.sbox : Sys2Proof.Laws.FieldsFit.Statement .sbox := by
  refine ⟨?_, ?_, ?_⟩ <;> decide

theorem Sys2Proof.Laws.FieldsFit.permIp : Sys2Proof.Laws.FieldsFit.Statement .permIp := by
  refine ⟨?_, ?_, ?_⟩ <;> decide

theorem Sys2Proof.Laws.FieldsFit.permFp : Sys2Proof.Laws.FieldsFit.Statement .permFp := by
  refine ⟨?_, ?_, ?_⟩ <;> decide

theorem Sys2Proof.Laws.FieldsFit.permE : Sys2Proof.Laws.FieldsFit.Statement .permE := by
  refine ⟨?_, ?_, ?_⟩ <;> decide

theorem Sys2Proof.Laws.FieldsFit.permP : Sys2Proof.Laws.FieldsFit.Statement .permP := by
  refine ⟨?_, ?_, ?_⟩ <;> decide

theorem Sys2Proof.Laws.FieldsFit.permPc1 : Sys2Proof.Laws.FieldsFit.Statement .permPc1 := by
  refine ⟨?_, ?_, ?_⟩ <;> decide

theorem Sys2Proof.Laws.FieldsFit.permPc2 : Sys2Proof.Laws.FieldsFit.Statement .permPc2 := by
  refine ⟨?_, ?_, ?_⟩ <;> decide

theorem Sys2Proof.Laws.FieldsFit.tokenid : Sys2Proof.Laws.FieldsFit.Statement .tokenid := by
  refine ⟨?_, ?_, ?_⟩ <;> decide

theorem Sys2Proof.Laws.FieldsFit.mintp : Sys2Proof.Laws.FieldsFit.Statement .mintp := by
  refine ⟨?_, ?_, ?_⟩ <;> decide

theorem Sys2Proof.Laws.FieldsFit.burnr : Sys2Proof.Laws.FieldsFit.Statement .burnr := by
  refine ⟨?_, ?_, ?_⟩ <;> decide
end

