-- ==== Sys2Proof/Laws/Platform.lean ====
section
/-! SUPPORT. The laws of the platform: the windows of the instances do not meet, a step of one instance and an access by
address say core by core what they change, and a run goes step by step (20_memory.md R50, R68). -/

namespace Sys2Proof.Machine

/-- An address in the window of instance `k` (20_memory.md R50). -/
theorem inWindow_iff {k addr : Nat} :
    inWindow k addr = true ↔ Config.coreBase k ≤ addr ∧ addr < Config.coreBase k + 0x200 := by
  rw [inWindow, Bool.and_eq_true, decide_eq_true_iff, decide_eq_true_iff]
  rfl

/-- An address is in one window at most (20_memory.md R68). -/
theorem inWindow_unique {j k addr : Nat} (hj : inWindow j addr = true) (hk : inWindow k addr = true) : j = k := by
  rw [inWindow_iff] at hj hk
  unfold Config.coreBase at hj hk
  exact Config.coreBaseIndex.injective (by omega)

/-- An access that is an event of one instance is none of another (20_memory.md R68). -/
theorem BusAccess.eventAt_other {a : BusAccess} {j k : Nat} {e : HostEvent} (h : a.eventAt k = some e) (hjk : j ≠ k) :
    a.eventAt j = none := by
  have key : ∀ addr, inWindow k addr = true → ¬ inWindow j addr = true := fun addr hk hj => hjk (inWindow_unique hj hk)
  cases a <;> simp only [BusAccess.eventAt, windowRead, windowWrite] at h ⊢ <;> split at h
  · next hk => exact if_neg (key _ hk)
  · cases h
  · next hk => exact if_neg (key _ hk)
  · cases h

/-- A step of instance `k`, core by core (20_memory.md R68). -/
theorem Platform.stepInstance_cores (p : Platform) (j k : Nat) :
    (p.stepInstance k).cores[j]? = if k = j then p.cores[j]?.map State.stepped else p.cores[j]? := by
  simp only [Platform.stepInstance, List.getElem?_modify]
  split <;> simp

/-- An access by address, core by core (20_memory.md R50, R68). -/
theorem Platform.access_cores (p : Platform) (a : BusAccess) (j : Nat) :
    (p.access a).cores[j]? = p.cores[j]?.map fun s => s.offered (a.eventAt j) := by
  simp [Platform.access]

/-- Two platforms with the same core at every index are the same. -/
theorem Platform.ext_cores {p q : Platform} (h : ∀ j : Nat, p.cores[j]? = q.cores[j]?) : p = q := by
  cases p; cases q; exact congrArg Platform.mk (List.ext_getElem? h)

@[simp] theorem State.offered_none (s : State) : s.offered none = s := rfl

@[simp] theorem State.offered_some (s : State) (e : HostEvent) : s.offered (some e) = s.enqueue e := rfl

/-- A run of one step more begins with that step. -/
theorem run_succ {s t : State} (h : step s = .next t) (k : Nat) :
    Host.Core.run Sys2Proof.core (k + 1) s = Host.Core.run Sys2Proof.core k t := by
  have h' : Sys2Proof.core.step s = .next t := h
  simp only [Host.Core.run, h']

end Sys2Proof.Machine
end

