-- ==== Sys2Proof/Laws/Window.lean ====
section
/-! SUPPORT. The laws of the register window: the map both ways, the access checks, and what a host read and a host write
answer (20_memory.md, 60_exceptions.md R247). -/

namespace Sys2Proof.Machine

/-- Every word stands at its own offset, a multiple of 4 (20_memory.md R52). -/
theorem wordAt_offset (x : WindowWord) : wordAt x.offset = some x ∧ x.offset % 4 = 0 := by
  cases x with
  | operand u =>
    cases u with
    | key n => revert n; decide
    | din n => revert n; decide
    | date => decide
    | supply n => revert n; decide
  | cmd => decide
  | status => decide
  | dout n => revert n; decide
  | hash n => revert n; decide
  | price n => revert n; decide
  | rkLow n => revert n; decide
  | rkHigh n => revert n; decide

/-- Nothing is mapped from offset 0x180 on (20_memory.md R52). -/
theorem wordAt_beyond {off : Nat} (h : 0x180 ≤ off) : wordAt off = none := by
  simp (disch := omega) only [wordAt, if_neg]

/-- A mapped offset is below 0x180, so that a claim about mapped offsets is a finite check. -/
theorem wordAt_lt {off : Nat} {x : WindowWord} (h : wordAt off = some x) : off < 0x180 := by
  rcases Nat.lt_or_ge off 0x180 with h' | h'
  · exact h'
  · rw [wordAt_beyond h'] at h; cases h

/-- A word read at a multiple of 4 stands at that offset, so that no two offsets are one word (20_memory.md R52). -/
theorem wordAt_some {off : Nat} {x : WindowWord} (h4 : off % 4 = 0) (h : wordAt off = some x) : x.offset = off := by
  have all : ∀ off < 0x180, off % 4 = 0 → ∀ x ∈ wordAt off, x.offset = off := by decide +kernel
  exact all off (wordAt_lt h) h4 x h

/-- An aligned 32-bit access at a mapped offset passes the checks (20_memory.md R57). -/
theorem checkAccess_mapped {off : Nat} {x : WindowWord} (h4 : off % 4 = 0) (h : wordAt off = some x) :
    checkAccess off 4 = .ok x := by
  simp [checkAccess, h4, h]

/-- An access of the right width at a word's offset passes the checks. -/
theorem checkAccess_offset (x : WindowWord) : checkAccess x.offset 4 = .ok x :=
  checkAccess_mapped (wordAt_offset x).2 (wordAt_offset x).1

/-- An access that passes the checks is a 32-bit access, aligned, and mapped (20_memory.md R57). -/
theorem checkAccess_ok {off width : Nat} {x : WindowWord} (h : checkAccess off width = .ok x) :
    width = 4 ∧ off % 4 = 0 ∧ wordAt off = some x := by
  unfold checkAccess at h
  split at h
  · cases h
  · split at h
    · cases h
    · split at h
      · cases h
      · next hw ha y hy => cases h; exact ⟨by omega, by omega, hy⟩

/-- A host read of a mapped word, in the order of its checks (60_exceptions.md R247). -/
theorem hostRead_mapped {off : Nat} {x : WindowWord} (h4 : off % 4 = 0) (h : wordAt off = some x) (s : State) :
    hostRead off 4 s =
      if s.status.busy ∧ ¬ x.readableBusy then .error .busyAccess
      else if ¬ s.defined x then .error .undefRead
      else .ok (s.word x) := by
  simp only [hostRead, checkAccess_mapped h4 h]

/-- A host write of a mapped word, in the order of its checks (60_exceptions.md R247). -/
theorem hostWrite_mapped {off : Nat} {x : WindowWord} (h4 : off % 4 = 0) (h : wordAt off = some x) (v : Word) (s : State) :
    hostWrite off 4 v s =
      if x.readOnly then .error .roWrite else if s.status.busy then .error .busyAccess else s.writeWord x v := by
  simp only [hostWrite, checkAccess_mapped h4 h]

/-- A host write of CMD: BUSY_ACCESS, or the issue and then the word (60_exceptions.md R240, 20_memory.md R60). -/
theorem hostWrite_cmd (s : State) (w : Word) :
    hostWrite 0x000 4 w s =
      if s.status.busy then .error .busyAccess
      else match s.issue w with
        | .ok t => .ok { t with cmd := w }
        | .error r => .error r := rfl

/-- The operand words of a command are defined when each is (60_exceptions.md R252). -/
theorem operandsDefined_iff (i : Instr) (o : Operands) :
    operandsDefined i o = true ↔ ∀ u ∈ operandWords i, o.defined u = true := by
  simp [operandsDefined]

end Sys2Proof.Machine
end

