-- ==== Sys2Proof/Tests/Slice0.lean ====
section
/-! SUPPORT. The model's own tests, with expected values from 95_test_vectors.md, and for every statement with hypotheses a
witness that meets them. -/

namespace Sys2Proof.Tests

open Sys2Proof.Machine

set_option Elab.async false

/-! Checks of syntax: each refuses an ill-formed term. -/

theorem test_wf_accepts_a_command : CommandFields.wellFormed ⟨0x06, 5, 0⟩ = true := by decide
theorem test_wf_refuses_res : CommandFields.wellFormed ⟨0x01, 0, 1⟩ = false := by decide
theorem test_wf_refuses_reserved_op : CommandFields.wellFormed ⟨0x0A, 0, 0⟩ = false := by decide
theorem test_wf_refuses_op_zero : CommandFields.wellFormed ⟨0x00, 0, 0⟩ = false := by decide
theorem test_wf_refuses_sel_on_enc : CommandFields.wellFormed ⟨0x02, 1, 0⟩ = false := by decide
theorem test_wf_refuses_perm_sel : CommandFields.wellFormed ⟨0x06, 6, 0⟩ = false := by decide
theorem test_wf_refuses_table_zero : tableWellFormed 64 [1, 0] = false := by decide
theorem test_wf_refuses_table_beyond : tableWellFormed 32 [33] = false := by decide
theorem test_wf_refuses_unmapped : mappedOffset 0x1FC = false ∧ mappedOffset 0x008 = false := by decide
theorem test_wf_refuses_outside : mappedOffset 0x200 = false := by decide
theorem test_wf_refuses_byte_read : HostEvent.wellFormed (.read 0x010 1) = false := by decide
theorem test_wf_refuses_misaligned : HostEvent.wellFormed (.read 0x006 4) = false := by decide
theorem test_wf_refuses_status_write : HostEvent.wellFormed (.write 0x004 4 0) = false := by decide
theorem test_wf_refuses_result_write : HostEvent.wellFormed (.write 0x080 4 0) = false := by decide
theorem test_wf_accepts_operand_write : HostEvent.wellFormed (.write 0x05C 4 0) = true := by decide

/-- The lists of WellFormed say what the map of Machine/Window.lean says. -/
theorem test_wf_agrees_with_the_map :
    (List.range 0x80).all (fun k => mappedOffset (4 * k) == (wordAt (4 * k)).isSome) = true := by decide +kernel

/-! Decoding: words written bit by bit from 30_encoding.md R80 to R82: RES, SEL, OP. -/

theorem test_decode_ksched : decode (0b00000000000000000000#20 ++ 0b0000#4 ++ 0b00000001#8) = .ok .ksched := by decide
theorem test_decode_enc : decode (0b00000000000000000000#20 ++ 0b0000#4 ++ 0b00000010#8) = .ok .enc := by decide
theorem test_decode_dec : decode (0b00000000000000000000#20 ++ 0b0000#4 ++ 0b00000011#8) = .ok .dec := by decide
theorem test_decode_feist : decode (0b00000000000000000000#20 ++ 0b0000#4 ++ 0b00000100#8) = .ok .feist := by decide
theorem test_decode_sbox : decode (0b00000000000000000000#20 ++ 0b0000#4 ++ 0b00000101#8) = .ok .sbox := by decide
theorem test_decode_permIp : decode (0b00000000000000000000#20 ++ 0b0000#4 ++ 0b00000110#8) = .ok .permIp := by decide
theorem test_decode_permFp : decode (0b00000000000000000000#20 ++ 0b0001#4 ++ 0b00000110#8) = .ok .permFp := by decide
theorem test_decode_permE : decode (0b00000000000000000000#20 ++ 0b0010#4 ++ 0b00000110#8) = .ok .permE := by decide
theorem test_decode_permP : decode (0b00000000000000000000#20 ++ 0b0011#4 ++ 0b00000110#8) = .ok .permP := by decide
theorem test_decode_permPc1 : decode (0b00000000000000000000#20 ++ 0b0100#4 ++ 0b00000110#8) = .ok .permPc1 := by decide
theorem test_decode_permPc2 : decode (0b00000000000000000000#20 ++ 0b0101#4 ++ 0b00000110#8) = .ok .permPc2 := by decide
theorem test_decode_tokenid : decode (0b00000000000000000000#20 ++ 0b0000#4 ++ 0b00000111#8) = .ok .tokenid := by decide
theorem test_decode_mintp : decode (0b00000000000000000000#20 ++ 0b0000#4 ++ 0b00001000#8) = .ok .mintp := by decide
theorem test_decode_burnr : decode (0b00000000000000000000#20 ++ 0b0000#4 ++ 0b00001001#8) = .ok .burnr := by decide

/-- The illegal words of V60, each by its cause. -/
theorem test_decode_illegal :
    decode 0x00000000 = .error .reservedOpcode ∧ decode 0x0000000A = .error .reservedOpcode ∧
    decode 0x000000FF = .error .reservedOpcode ∧ decode 0x00000102 = .error .selectorNotZero ∧
    decode 0x00000606 = .error .reservedSelector ∧ decode 0x00000F06 = .error .reservedSelector ∧
    decode 0x00001002 = .error .reservedBits ∧ decode 0x80000001 = .error .reservedBits := by decide

/-- The table's own bits reach the decoder unshifted. -/
theorem test_table_word : decodeTableWord 32 0x506 = some .permPc2 ∧ decodeTableWord 32 0x606 = none := by decide

/-- The first step after reset runs the placed word. -/
theorem test_step_runs_the_placed_word (i : Instr) :
    step (State.reset.withFetchWord 32 (encode i).toNat) =
      exec i (State.reset.withFetchWord 32 (encode i).toNat) := by
  cases i <;> rfl

/-! The commands on the vectors of 95_test_vectors.md. -/

/-- The reset state with these operands, and command word `w` in flight. -/
def started (w : Word) (o : Operands) : State :=
  State.inFlight { State.reset with ops := o } w

/-- The state after the completion. -/
def finished (w : Word) (o : Operands) : State :=
  (started w o).stepped

/-- Operands with this KEY and DIN. -/
def keyDin (key : BitVec 64) (din : BitVec 128) : Operands :=
  { Operands.reset with key := key, din := din }

/-- Operands with this SUPPLY. -/
def withSupply (n : BitVec 256) : Operands :=
  { Operands.reset with supply := n }

set_option maxRecDepth 100000

/-- V10: RK words at 0x100, 0x104, 0x178, 0x17C. -/
theorem test_ksched_reference :
    let t := finished 0x00000001 (keyDin 0x3230323030313031 0)
    (t.word (.rkLow 0), t.word (.rkHigh 0), t.word (.rkLow 15), t.word (.rkHigh 15), t.status.word) =
      (0xac442040, 0x0000502c, 0x8c0401c4, 0x0000512c, 0x00000002) := by decide +kernel

/-- V14: C all zeros, D all ones. -/
theorem test_ksched_weak_key :
    (finished 0x00000001 (keyDin 0x1f1f1f1f0e0e0e0e 0)).rk.toList = List.replicate 16 0x000000ffffff := by decide +kernel

/-- V1. -/
theorem test_enc_reference :
    let t := finished 0x00000002 (keyDin 0x3230323030313031 0x6920616d207374696c6c20616c697665)
    (t.dout, t.status.word, t.rk[15]) = (0x79030f7920aaa3cfbbd92afbb93e70ba, 0x00000002, 0x512c8c0401c4) := by
  decide +kernel

/-- V18: both blocks complemented. -/
theorem test_enc_complement :
    (finished 0x00000002 (keyDin 0xeccba8866443200e 0xfedcba9876543210fedcba9876543210)).dout =
      0x7a17ecabf0f54bfa7a17ecabf0f54bfa := by decide +kernel

/-- V2: RK gets the encryption order. -/
theorem test_dec_reference :
    let t := finished 0x00000003 (keyDin 0x3230323030313031 0x79030f7920aaa3cfbbd92afbb93e70ba)
    (t.dout, t.status.word, t.rk[0]) = (0x6920616d207374696c6c20616c697665, 0x00000002, 0x502cac442040) := by
  decide +kernel

/-- V4. -/
theorem test_dec_fixed_ciphertext :
    (finished 0x00000003 (keyDin 0x3230323030313031 0x00112233445566778899aabbccddeeff)).dout =
      0xc0bef22f025a2518133df8c339aec016 := by decide +kernel

/-- V31, with the bits above the subkey set (V35). -/
theorem test_feist_round_one :
    let t := finished 0x00000004 (keyDin 0 0xffff1b02effc7072f0aaf0aa)
    (t.dout, t.status.word) = (0x234aa9bb, 0x00000002) := by decide +kernel

/-- V33. -/
theorem test_feist_all_ones : (finished 0x00000004 (keyDin 0 0xffffffffffff00000000)).dout = 0x38dbf9cb := by
  decide +kernel

/-- V32, with the bits above the input set (V35). -/
theorem test_sbox_reference : (finished 0x00000005 (keyDin 0 0xffff6117ba866527)).dout = 0x5c82b597 := by decide +kernel

/-- V34: row 2 of S1, the order of the row bits. -/
theorem test_sbox_row_order : (finished 0x00000005 (keyDin 0 0x800000000000)).dout = 0x4fa72c4d := by decide +kernel

/-- V20. -/
theorem test_permIp : (finished 0x00000006 (keyDin 0 0x0123456789abcdef)).dout = 0xcc00ccfff0aaf0aa := by decide +kernel

/-- V20: DES position 64. -/
theorem test_permIp_last_position : (finished 0x00000006 (keyDin 0 1)).dout = 0x0000008000000000 := by decide +kernel

/-- V21. -/
theorem test_permFp : (finished 0x00000106 (keyDin 0 0x0123456789abcdef)).dout = 0xff330faa00330faa := by decide +kernel

/-- V22, with every bit above the input set. -/
theorem test_permE : (finished 0x00000206 (keyDin 0 0xffffffffffffffffffffffff89abcdef)).dout = 0xc53d57e5bf5f := by
  decide +kernel

/-- V22: DES position 1 goes to positions 2 and 48. -/
theorem test_permE_wraps : (finished 0x00000206 (keyDin 0 0x80000000)).dout = 0x400000000001 := by decide +kernel

/-- V23. -/
theorem test_permP : (finished 0x00000306 (keyDin 0 0x89abcdef)).dout = 0x99de6d6d := by decide +kernel

/-- V24. -/
theorem test_permPc1 : (finished 0x00000406 (keyDin 0 0x133457799bbcdff1)).dout = 0xf0ccaaf556678f := by decide +kernel

/-- V24: parity bits only. -/
theorem test_permPc1_parity : (finished 0x00000406 (keyDin 0 0x0101010101010101)).dout = 0 := by decide +kernel

/-- V25, with the bits above the input set. -/
theorem test_permPc2 : (finished 0x00000506 (keyDin 0 0xff23456789abcdef)).dout = 0x921c7095f77b := by decide +kernel

/-- V26. -/
theorem test_rotl :
    (rotl 0xf0ccaaf#28 1, rotl 0xf0ccaaf#28 2, rotl 0x8000000#28 1, rotl 0xf0ccaaf#28 28) =
      (0xe19955f, 0xc332abf, 0x0000001, 0xf0ccaaf) := by decide

/-- V40. -/
theorem test_tokenid_reference :
    let t := finished 0x00000007
      { Operands.reset with date := 0x01343aa5, din := 0x79030f7920aaa3cfbbd92afbb93e70ba }
    (t.hash, t.word (.hash 7), t.status.word) =
      (0x5f0467cc458cc9e908a26ac8ff6d6cfff7ee71eb8e74d2f5f2459d8019a51823, 0x5f0467cc, 0x00000002) := by
  decide +kernel

/-- V45: the digest of the empty message. -/
theorem test_keccak_empty :
    natOfBytesBe (keccak256 []) = 0xc5d2460186f7233c927e7db2dcc703c0e500b653ca82273b7bfad8045d85a470 := by decide +kernel

/-- V52, the largest legal supply. -/
theorem test_mintp_largest :
    let t := finished 0x00000008
      (withSupply 115792089237316195423570985008687907853269984665640564039457574)
    (t.price, t.status.word) =
      (115792089237316195423570985008687907853269984665640564039457584000000000000000, 0x00000002) := by decide +kernel

/-- V53: OVERFLOW, and PRICE keeps its value. -/
theorem test_mintp_overflow :
    let s := started 0x00000008 (withSupply 115792089237316195423570985008687907853269984665640564039457575)
    let t := State.stepped { s with price := 7, priceDef := 0xFF }
    (t.price, t.status.word) = (7, 0x00000204) := by decide +kernel

/-- V59, both sides of the boundary. -/
theorem test_burnr_boundary :
    (finished 0x00000009 (withSupply 11637395903247858836539797488310342497816078860868398395916)).price =
        11579208923731619542357098500868790785326998466564056403945375000000000000 ∧
      (finished 0x00000009 (withSupply 11637395903247858836539797488310342497816078860868398395917)).status.word =
        0x00000204 := by decide +kernel

/-- V55 and V58. -/
theorem test_burnr_two_and_domain :
    (finished 0x00000009 (withSupply 2)).price = 10945000000000000 ∧
      (finished 0x00000009 (withSupply 0)).status.word = 0x00000304 := by decide +kernel

/-- V60: an illegal word completes with ILLEGAL_CMD straight after reset, and reads back. -/
theorem test_illegal_word :
    ((finished 0x80000001 Operands.reset).status.word, (finished 0x80000001 Operands.reset).cmd) =
      (0x00000104, 0x80000001) := by decide +kernel

/-! The window: V61. -/

/-- A busy state: ENC in flight with host steps left. -/
def busy : State :=
  { started 0x00000002 Operands.reset with wait := 3 }

theorem test_fault_width : (State.reset.event (.write 0x010 1 0)).fault = some .badWidth := by decide +kernel
theorem test_fault_misaligned : (State.reset.event (.read 0x006 4)).fault = some .misaligned := by decide +kernel
theorem test_fault_unmapped :
    (State.reset.event (.read 0x008 4)).fault = some .unmapped ∧
      (State.reset.event (.read 0x1FC 4)).fault = some .unmapped := by decide +kernel
theorem test_fault_read_only :
    (State.reset.event (.write 0x004 4 0)).fault = some .roWrite ∧
      (State.reset.event (.write 0x080 4 0)).fault = some .roWrite ∧
      (busy.event (.write 0x0A0 4 0)).fault = some .roWrite := by decide +kernel
theorem test_fault_busy :
    (busy.event (.write 0x010 4 0)).fault = some .busyAccess ∧
      (busy.event (.write 0x000 4 2)).fault = some .busyAccess ∧
      (busy.event (.read 0x080 4)).fault = some .busyAccess := by decide +kernel
theorem test_fault_undefined :
    (State.reset.event (.read 0x080 4)).fault = some .undefRead ∧
      (State.reset.event (.write 0x000 4 2)).fault = some .undefOperand ∧
      (State.reset.event (.write 0x000 4 2)).cmd = 0 := by decide +kernel
theorem test_read_busy :
    (busy.event (.read 0x004 4)).returned = [0x00000001] ∧ (busy.event (.read 0x000 4)).returned = [0x00000002] := by
  decide +kernel
/-- FEIST needs DIN words 0 to 2 only, PERM.E word 0 only (V61). -/
theorem test_operands_needed :
    operandsDefined .feist { Operands.reset with dinDef := 0x7 } = true ∧
      operandsDefined .permE { Operands.reset with dinDef := 0x1 } = true ∧
      operandsDefined .feist { Operands.reset with dinDef := 0x3 } = false := by decide

/-! The host side: V70 to V73. -/

theorem test_key_text :
    keyOfText [0x32, 0x30, 0x32, 0x30, 0x30, 0x31, 0x30, 0x31] = .ok 0x3230323030313031 ∧
      keyOfText [0x32, 0x30, 0x32, 0x30, 0x30, 0x31, 0x30] = .error .invalidKey ∧
      keyOfText [0x32, 0x30, 0x32, 0x30, 0x30, 0x31, 0x30, 0x100] = .error .invalidKey := by decide +kernel
theorem test_plaintext :
    dinOfPlaintext [0x68, 0x69] = .ok 0x68692020202020202020202020202020 ∧
      dinOfPlaintext [] = .ok 0x20202020202020202020202020202020 ∧
      dinOfPlaintext (List.replicate 17 0x61) = .error .invalidPlaintext ∧
      dinOfPlaintext [0x100] = .error .invalidPlaintext := by decide +kernel
/-- Digits of both cases are read; a prefix `0X` and 31 or 33 digits are not. -/
theorem test_ciphertext :
    dinOfCiphertext ([0x30, 0x78] ++ List.replicate 30 0x30 ++ [0x62, 0x61]) = .ok 0xba ∧
      dinOfCiphertext (List.replicate 30 0x30 ++ [0x42, 0x41]) = .ok 0xba ∧
      dinOfCiphertext ([0x30, 0x58] ++ List.replicate 32 0x30) = .error .invalidCiphertext ∧
      dinOfCiphertext (List.replicate 31 0x30) = .error .invalidCiphertext ∧
      dinOfCiphertext (List.replicate 33 0x30) = .error .invalidCiphertext := by decide +kernel
/-- V71, the fifth row. -/
theorem test_rendering :
    plaintextText 0x7fa0a1adaeff20202020202020202020 =
      [0x5C, 0x78, 0x37, 0x66, 0x5C, 0x78, 0x61, 0x30, 0xA1, 0x5C, 0x78, 0x61, 0x64, 0xAE, 0xFF] ++
        List.replicate 10 0x20 := by decide +kernel
/-- V72. -/
theorem test_decoding :
    decodeEscapes [0x5C, 0x78, 0x34, 0x31] = .ok [0x41] ∧ decodeEscapes [0x5C, 0x78, 0x41, 0x44] = .ok [0xAD] ∧
      decodeEscapes [0x5C, 0x58, 0x34, 0x31] = .ok [0x5C, 0x58, 0x34, 0x31] ∧ decodeEscapes [0x61, 0x5C] = .ok [0x61, 0x5C] ∧
      decodeEscapes [0x5C, 0x78, 0x34] = .error .invalidEscape ∧
      decodeEscapes [0x5C, 0x78, 0x67, 0x31] = .error .invalidEscape ∧
      decodeEscapes [0x100] = .error .invalidPlaintext := by decide +kernel

/-- Program P1, instruction by instruction. -/
theorem test_program_P1 :
    encryptProgram [0x32, 0x30, 0x32, 0x30, 0x30, 0x31, 0x30, 0x31]
        [0x69, 0x20, 0x61, 0x6d, 0x20, 0x73, 0x74, 0x69, 0x6c, 0x6c, 0x20, 0x61, 0x6c, 0x69, 0x76, 0x65] =
      .ok [.wr 0x010 (.lit 0x30313031), .wr 0x014 (.lit 0x32303230),
        .wr 0x020 (.lit 0x6c697665), .wr 0x024 (.lit 0x6c6c2061), .wr 0x028 (.lit 0x20737469), .wr 0x02C (.lit 0x6920616d),
        .wr 0x000 (.lit 0x00000002), .rd 0x004 0, .bnz 0 0x1 7, .bnz 0 0x4 15,
        .rd 0x080 1, .rd 0x084 2, .rd 0x088 3, .rd 0x08C 4, .halt, .halt] := by decide +kernel

/-- RC[0], RC[10] and RC[23] of 44_identity_economics.md R185. -/
theorem test_round_constants :
    (roundConstant 0, roundConstant 10, roundConstant 23) =
      (0x0000000000000001, 0x0000000080008009, 0x8000000080008008) := by decide

/-- Program P3's first lines: `wr256 SUPPLY, 2` and the issue of MINTP by a host program (30_encoding.md R88, R89). -/
theorem test_host_program :
    ((priceProgram .mintp 2).take 9).getLast? = some (.wr 0x000 (.lit 0x00000008)) := by decide +kernel

/-! Witnesses: for each statement with hypotheses, values that meet them together, clause by clause. The names are the
statements'. -/

/-- The operands after the host has written what command `i` reads. -/
def prepared (i : Instr) : Operands :=
  Operands.reset.rewritten (operandWords i)

/-- An idle state ready for the host's write of command `i`. -/
def ready (i : Instr) : State :=
  { State.reset with ops := prepared i, events := [.write 0x000 4 (encode i)] }

theorem test_prepared (i : Instr) : operandsDefined i (prepared i) = true := by cases i <;> decide

theorem test_decode_of_encode (i : Instr) : decode (encode i) = .ok i := by cases i <;> decide

/-- A command in flight: the hypothesis of every statement of a command's result, and of CompletionFrame. -/
theorem test_witness_in_flight (i : Instr) :
    ∃ p t, (started (encode i) Operands.reset).pending = some p ∧ p.word = encode i ∧
      exec i (started (encode i) Operands.reset) = .next t :=
  ⟨_, _, rfl, rfl, exec_of_pending i _ _ rfl⟩

theorem test_witness_DecodeAndEncodeAgree : ∃ w i, decode w = .ok i := ⟨0x00000506, .permPc2, by decide⟩

theorem test_witness_IllegalWordOnlyReports :
    ((0x0000000A#32).extractLsb' 0 8 = 0x0A ∧ (0x00000102#32).extractLsb' 8 4 ≠ 0 ∧
      (0x00000606#32).extractLsb' 8 4 = 6 ∧ (0x00001002#32).extractLsb' 12 20 ≠ 0 ∧ (0#32).extractLsb' 0 8 = 0) ∧
    State.reset.status.busy = false ∧
    ∃ (s : State) (p : Pending), s.pending = some p ∧ p.word = 0x00000606 ∧ s.completes = true :=
  ⟨by decide, rfl, started 0x00000606 Operands.reset, _, rfl, rfl, rfl⟩

theorem test_witness_StepRunsTheDecodedCommand :
    (∃ (s : State) (p : Pending) (i : Instr), s.pending = some p ∧ (s.wait = 0 ∨ s.events = []) ∧ decode p.word = .ok i) ∧
    (∃ (s : State) (p : Pending) (e : Illegal), s.pending = some p ∧ (s.wait = 0 ∨ s.events = []) ∧ decode p.word = .error e) ∧
    ∃ s : State, s.pending = none :=
  ⟨⟨started (encode .burnr) Operands.reset, _, .burnr, rfl, .inl rfl, by decide⟩,
    ⟨started 0x00001002 Operands.reset, _, .reservedBits, rfl, .inl rfl, by decide⟩, State.reset, rfl⟩

theorem test_witness_host_turn_in_flight :
    ∃ s : State, s.pending.isSome = true ∧ s.wait ≠ 0 ∧ s.events ≠ [] :=
  ⟨{ busy with events := [.read 0x004 4] }, rfl, by decide, by decide⟩

theorem test_witness_IssueThenCompletion (i : Instr) :
    (ready i).unfaulted ∧ (ready i).pending = none ∧ (ready i).status.busy = false ∧
      (ready i).events = [.write 0x000 4 (encode i)] ∧ operandsDefined i (ready i).ops = true :=
  ⟨rfl, rfl, rfl, rfl, test_prepared i⟩

theorem test_witness_EveryStepAnswersNext : State.reset.pending = none ∧ busy.pending.isSome = true := ⟨rfl, rfl⟩

theorem test_reset_inv : State.reset.Inv :=
  ⟨rfl, rfl, by simp [State.reset], by simp [State.reset], by simp [State.reset], by decide,
    .inl rfl, .inl rfl, .inl rfl, .inl rfl⟩

theorem test_busy_inv : busy.Inv := by
  refine ⟨rfl, rfl, ?_, ?_, ?_, by decide, .inl rfl, .inl rfl, .inl rfl, .inl rfl⟩
  · rintro p ⟨⟩; rfl
  · rintro p ⟨⟩; rfl
  · rintro p i ⟨⟩ hd
    have : Instr.enc = i := Except.ok.inj ((test_decode_of_encode .enc).symm.trans hd)
    subst this
    decide

theorem test_witness_InvariantKept :
    busy.Inv ∧ (∃ t, step busy = .next t) ∧ State.reset.Inv ∧ step State.reset = .next State.reset :=
  ⟨test_busy_inv, ⟨_, rfl⟩, test_reset_inv, rfl⟩

theorem test_witness_CommandCompletesWithinLatency :
    ∃ (s : State) (p : Pending), s.Inv ∧ s.pending = some p ∧ s.wait = 3 ∧ s.events.length = 4 ∧
      (∀ e ∈ s.events.take s.wait, e ≠ .reset) ∧
      ∀ (k : Nat) (u : State), k ≤ s.wait → Host.Core.run Sys2Proof.core k s = .next u → u.unfaulted := by
  refine ⟨{ busy with events := List.replicate 4 (.read 0x004 4) }, _, ?_, rfl, rfl, rfl, by decide, ?_⟩
  · exact ⟨rfl, rfl, test_busy_inv.3, test_busy_inv.4, test_busy_inv.5, by decide, .inl rfl, .inl rfl, .inl rfl, .inl rfl⟩
  · intro k u hk h
    have h4 : k = 0 ∨ k = 1 ∨ k = 2 ∨ k = 3 := by have : k ≤ 3 := hk; omega
    rcases h4 with rfl | rfl | rfl | rfl <;> cases h <;> rfl

/-- Two states that differ in an undefined word. -/
theorem test_witness_UndefinedWordsNeverMatter :
    State.reset.Inv ∧ State.reset ≠ { State.reset with dout := 5 } ∧ State.reset.Same { State.reset with dout := 5 } := by
  refine ⟨test_reset_inv, by decide, ⟨rfl, rfl, rfl, rfl, fun _ _ => rfl⟩, rfl, rfl, rfl, rfl, rfl, rfl, ?_, trivial, rfl,
    rfl, rfl, rfl, rfl⟩
  intro x hx
  cases x <;> first | rfl | simp [State.defined, State.reset] at hx

theorem test_witness_ResetValues : WindowWord.dout 3 ≠ .cmd ∧ WindowWord.dout 3 ≠ .status := by decide

theorem test_witness_ResetEventKeepsFault :
    ∃ (s : State) (es : List HostEvent), s.events = .reset :: es ∧ s.completes = false ∧ s.pending.isSome = true ∧
      s.fault = some .badWidth :=
  ⟨{ busy with events := [.reset, .read 0x004 4], fault := some .badWidth }, _, rfl, rfl, rfl, rfl⟩

theorem test_witness_IssueEffect :
    State.reset.status.busy = false ∧ busy.status.busy = true ∧
    (∃ i u, decode 0x00000206 = .ok i ∧ u ∈ operandWords i ∧ State.reset.ops.defined u = false) ∧
    (∀ i u, decode 0x00000206 = .ok i → u ∈ operandWords i → (prepared .permE).defined u = true) ∧
    ∀ i u, decode 0x00000606 = .ok i → u ∈ operandWords i → State.reset.ops.defined u = true := by
  refine ⟨rfl, rfl, ⟨.permE, .din 0, by decide, by decide, by decide⟩, ?_, ?_⟩
  · intro i u hd hu
    have : Instr.permE = i := Except.ok.inj ((test_decode_of_encode .permE).symm.trans hd)
    subst this
    exact (operandsDefined_iff _ _).1 (test_prepared .permE) u hu
  · intro i u hd
    have : decode 0x00000606 = .error .reservedSelector := by decide
    rw [this] at hd; cases hd

theorem test_witness_UndefOperandExactly :
    State.reset.status.busy = false ∧ ∃ w e, decode w = .error e := ⟨rfl, 0x00000F06, .reservedSelector, by decide⟩

theorem test_witness_MintpPriceOrOverflow :
    (withSupply 115792089237316195423570985008687907853269984665640564039457574).supply.toNat ≤
        115792089237316195423570985008687907853269984665640564039457574 ∧
      115792089237316195423570985008687907853269984665640564039457574 <
        (withSupply 115792089237316195423570985008687907853269984665640564039457575).supply.toNat := by decide

theorem test_witness_BurnrRewardOrError :
    (1 ≤ (withSupply 1).supply.toNat ∧ (withSupply 0).supply.toNat = 0) ∧
      (withSupply 11637395903247858836539797488310342497816078860868398395916).supply.toNat ≤
        11637395903247858836539797488310342497816078860868398395916 ∧
      11637395903247858836539797488310342497816078860868398395916 <
        (withSupply 11637395903247858836539797488310342497816078860868398395917).supply.toNat := by decide

/-- Two different states with one snapshot. -/
theorem test_witness_ResultsFromOperandsOnly (i : Instr) :
    ∃ (s s' t t' : State) (p p' : Pending), s ≠ s' ∧ s.pending = some p ∧ s'.pending = some p' ∧ p.snap = p'.snap ∧
      exec i s = .next t ∧ exec i s' = .next t' :=
  ⟨started (encode i) Operands.reset, { started (encode i) Operands.reset with price := 7 }, _, _, _, _,
    fun h => absurd (congrArg State.price h) (by decide : (0 : BitVec 256) ≠ 7), rfl, rfl, rfl,
    exec_of_pending i _ _ rfl, exec_of_pending i _ _ rfl⟩

theorem test_witness_AllResultsOrNone (w : Word) :
    ∃ p t, (started w Operands.reset).pending = some p ∧ (started w Operands.reset).complete p = .next t :=
  ⟨_, _, rfl, State.complete_eq _ _ rfl⟩

theorem test_witness_PermuteByPosition : tableE.length = 48 ∧ tableWellFormed 32 tableE = true := by decide

theorem test_witness_ParityBitsNeverMatter : ∀ j, (0x0101010101010101#64).getLsbD j = true → j % 8 = 0 := by
  intro j h
  rcases Nat.lt_or_ge j 64 with hj | hj
  · have all : ∀ j < 64, (0x0101010101010101#64).getLsbD j = true → j % 8 = 0 := by decide +kernel
    exact all j hj h
  · rw [BitVec.getLsbD_of_ge _ _ hj] at h; cases h

/-- V14: the key with C all zeros and D all ones. -/
theorem test_witness_WeakKeysEncryptAsTheyDecrypt :
    (keyHalves 0x1f1f1f1f0e0e0e0e).1 = 0 ∧ (keyHalves 0x1f1f1f1f0e0e0e0e).2 = BitVec.allOnes 28 := by decide +kernel

/-- ENC, then a command on its result under the same key; and the same from DEC. -/
theorem test_witness_CipherRoundTrip (i : Instr) :
    ∃ (s s' t : State) (p p' : Pending), s.pending = some p ∧ s'.pending = some p' ∧ p'.snap.key = p.snap.key ∧ p'.snap.din = t.dout ∧
      exec i s = .next t :=
  let s := started (encode i) Operands.reset
  let p : Pending := ⟨encode i, s.ops⟩
  let t := s.finish (resultOf i p.snap)
  ⟨s, { s with pending := some ⟨encode i, { s.ops with din := t.dout }⟩ }, t, p, ⟨encode i, { s.ops with din := t.dout }⟩,
    rfl, rfl, rfl, rfl, exec_of_pending i s p rfl⟩

theorem test_witness_EcbBlocksAreIndependent :
    let d : BitVec 128 := 0x0123456789abcdef0123456789abcdef
    let e : BitVec 128 := 0x0123456789abcdef0000000000000000
    d.extractLsb' 64 64 = e.extractLsb' 64 64 ∧ d.extractLsb' 0 64 ≠ e.extractLsb' 0 64 ∧
      d.extractLsb' 64 64 = d.extractLsb' 0 64 := by decide

theorem test_witness_KeccakRoundLaneByLane : (List.replicate 25 (0 : Lane)).length = 25 := by decide

theorem test_witness_PriceLaws : nMintMax - 1 + 1 ≤ nMintMax ∧ 1 ≤ nBurnMax ∧ nMintMax < nMintMax + 1 := by decide

theorem test_witness_RegisterMap :
    0x17C % 4 = 0 ∧ wordAt 0x17C = some (.rkHigh 15) ∧ wordAt 0x180 = none ∧ wordAt 0x05C = some (.operand (.supply 7)) ∧
      wordAt 0x060 = none := by decide

theorem test_witness_WindowAtCoreBase (k : Nat) :
    ∃ addr addr', addr = Config.coreBase k + 0x1FF ∧ inWindow k addr = true ∧ Config.coreBase k + 0x200 ≤ addr' :=
  ⟨Config.coreBase k + 0x1FF, Config.coreBase k + 0x200, rfl, by simp [inWindow, Config.windowSize], Nat.le_refl _⟩

theorem test_witness_MisusedAccessOnlyFaults :
    (1 ≠ 4 ∧ 0x006 % 4 ≠ 0 ∧ 0x008 % 4 = 0 ∧ wordAt 0x008 = none) ∧ 0x08C % 4 = 0 ∧ (0x080 ≤ 0x08C ∧ 0x08C < 0x090) := by
  decide

theorem test_witness_BusyHazard :
    busy.status.busy = true ∧ 0x05C % 4 = 0 ∧ wordAt 0x05C = some (.operand (.supply 7)) ∧
      (WindowWord.operand (.supply 7)).readOnly = false ∧ wordAt 0x010 = some (.operand (.key 0)) := by decide +kernel

theorem test_witness_ReadReturnsTheWord :
    (busy.status.busy = true ∧ wordAt 0x080 = some (.dout 0)) ∧
    (State.reset.status.busy = false ∧ State.reset.defined (.dout 0) = false) ∧
    State.defined { State.reset with doutDef := 0x1 } (.dout 0) = true := by decide +kernel

theorem test_witness_OperandWriteSetsOneWord :
    State.reset.status.busy = false ∧ WindowWord.operand (.key 1) ≠ .operand (.key 0) := by decide

theorem test_witness_FaultIsNeverCleared :
    (∃ s t : State, step s = .next t ∧ s.fault.isSome = true ∧ s.events = [.reset]) ∧
    ∃ s t : State, Host.Core.run Sys2Proof.core 2 s = .next t ∧ t.unfaulted ∧ s.events.length = 2 :=
  ⟨⟨{ State.reset with fault := some .misaligned, events := [.reset] }, _, rfl, rfl, rfl⟩,
    { State.reset with events := [.reset, .read 0x004 4] }, _, rfl, rfl, rfl⟩

/-- An issue that goes through, a completion, and a step that changes BUSY. -/
theorem test_witness_BusyLifeCycle :
    (∃ t, hostWrite 0x000 4 (encode .enc) (ready .enc) = .ok t) ∧
    (∃ p t, busy.pending = some p ∧ busy.complete p = .next t) ∧
    ∃ t, busy.Inv ∧ step { busy with events := [.reset] } = .next t ∧ t.status.busy ≠ busy.status.busy :=
  ⟨⟨_, rfl⟩, ⟨_, _, rfl, State.complete_eq _ _ rfl⟩, _, test_busy_inv, rfl, by decide⟩

theorem test_witness_DoneLifeCycle :
    ∃ s t : State, s.Inv ∧ step s = .next t ∧ s.status.done = true := by
  refine ⟨{ State.reset with status := ⟨false, true, false, 0⟩ }, _, ?_, rfl, rfl⟩
  exact ⟨rfl, rfl, by simp [State.reset], by simp [State.reset], by simp [State.reset], by decide,
    .inl rfl, .inl rfl, .inl rfl, .inl rfl⟩

theorem test_witness_ErrorReportLifeCycle :
    ∃ s t : State, s.Inv ∧ step s = .next t ∧ s.status.err = true := by
  refine ⟨{ State.reset with status := ⟨false, false, true, 0x03⟩ }, _, ?_, rfl, rfl⟩
  exact ⟨rfl, rfl, by simp [State.reset], by simp [State.reset], by simp [State.reset], by decide,
    .inl rfl, .inl rfl, .inl rfl, .inl rfl⟩

/-- Completions that change DOUT, HASH, PRICE, RK; each is due. -/
theorem test_witness_ResultRegisterWriters :
    (started (encode .sbox) Operands.reset).completes = true ∧
    (finished (encode .sbox) Operands.reset).dout ≠ (started (encode .sbox) Operands.reset).dout ∧
    (finished (encode .tokenid) Operands.reset).hashDef ≠ (started (encode .tokenid) Operands.reset).hashDef ∧
    (finished (encode .mintp) Operands.reset).price ≠ (started (encode .mintp) Operands.reset).price ∧
    (finished (encode .ksched) Operands.reset).rkDef ≠ (started (encode .ksched) Operands.reset).rkDef := by
  decide +kernel

theorem test_witness_OperandAndCommandWriters :
    (∃ s t : State, step s = .next t ∧ t.ops ≠ s.ops) ∧ ∃ s t : State, step s = .next t ∧ t.cmd ≠ s.cmd :=
  ⟨⟨{ State.reset with events := [.write 0x010 4 7] }, _, rfl, by decide⟩, ready .enc, _, rfl, by decide⟩

theorem test_witness_InstancesCommute :
    (0 : Nat) ≠ 1 ∧ ∃ a b : BusAccess, (∃ e, a.eventAt 0 = some e) ∧ ∃ f, b.eventAt 1 = some f :=
  ⟨by decide, .read (Config.coreBase 0) 4, .write (Config.coreBase 1) 4 2,
    ⟨_, by simp only [BusAccess.eventAt, windowRead]; exact if_pos (by simp [inWindow, Config.windowSize])⟩,
    _, by simp only [BusAccess.eventAt, windowWrite]; exact if_pos (by simp [inWindow, Config.windowSize])⟩

theorem test_witness_EscapeRoundTrip : ¬ ∃ a b, [0x5C#8, 0x02#8] = a ++ [0x5C, 0x78] ++ b := by
  rintro ⟨a, b, h⟩
  have hl := congrArg List.length h
  simp at hl
  have ha : a = [] := List.length_eq_zero_iff.1 (by omega)
  subst ha
  simp at h

/-- The bytes of V72's malformed escape hold no backslash, `x` and two hex digits. -/
theorem test_witness_EscapeRoundTripAsWritten :
    ¬ ∃ (a b : List Byte) (h1 h0 : Byte), (hexValue h1.toNat).isSome = true ∧ (hexValue h0.toNat).isSome = true ∧
      [0x5C#8, 0x78#8, 0x67#8, 0x31#8] = a ++ [0x5C, 0x78, h1, h0] ++ b := by
  rintro ⟨a, b, h1, h0, hv, -, h⟩
  have hl := congrArg List.length h
  simp at hl
  have ha : a = [] := List.length_eq_zero_iff.1 (by omega)
  subst ha
  simp at h
  obtain ⟨rfl, -⟩ := h
  revert hv
  decide

end Sys2Proof.Tests
end

section
/-! PROOFS. One step of the machine as one inversion lemma, the STATUS a completion leaves, and the invariant kept by every
step (10_state.md R27, R28, R36, R37). -/

namespace Sys2Proof.Machine

/-! The step. -/

/-- What the command in flight ends with: its rule on its snapshot, or ILLEGAL_CMD (60_exceptions.md R243, R244). -/
def Pending.outcome (p : Pending) : Except CoreError Result :=
  match Sys2Proof.decode p.word with
  | .ok i => resultOf i p.snap
  | .error _ => .error .illegalCmd

theorem Pending.outcome_of_decode {p : Pending} {i : Instr} (h : Sys2Proof.decode p.word = .ok i) :
    p.outcome = resultOf i p.snap := by
  simp only [Pending.outcome, h]

theorem Pending.outcome_of_illegal {p : Pending} {e : Illegal} (h : Sys2Proof.decode p.word = .error e) :
    p.outcome = .error .illegalCmd := by
  simp only [Pending.outcome, h]

theorem State.complete_eq_finish {s : State} {p : Pending} (h : s.pending = some p) :
    s.complete p = .next (s.finish p.outcome) :=
  State.complete_eq s p h

theorem State.pending_of_completes {s : State} (h : s.completes = true) : ∃ p, s.pending = some p :=
  Option.isSome_iff_exists.1 (Bool.and_eq_true_iff.1 h).1

theorem step_of_completes {s : State} {p : Pending} (hp : s.pending = some p) (hc : s.completes = true) :
    step s = .next (s.finish p.outcome) := by
  rcases step_cases s with ⟨q, hq, -, hs⟩ | ⟨hn, -⟩
  · obtain rfl : p = q := Option.some.inj (hp.symm.trans hq)
    rw [hs, State.complete_eq_finish hp]
  · rw [hn] at hc; cases hc

theorem step_of_not_completes {s : State} (hc : s.completes = false) : step s = .next s.hostTurn := by
  rcases step_cases s with ⟨-, -, ht, -⟩ | ⟨-, hs⟩
  · rw [ht] at hc; cases hc
  · exact hs

/-- The state in which the host makes the event it has taken off its list: one step of the latency is over. -/
def State.taking (s : State) (es : List HostEvent) : State :=
  { s with events := es, wait := s.wait - 1 }

theorem State.hostTurn_eq_event {s : State} {e : HostEvent} {es : List HostEvent} (h : s.events = e :: es) :
    s.hostTurn = (s.taking es).event e :=
  State.hostTurn_cons h

/-- Every register but FAULT is the same in both states: `t` differs from `s` in the mark FAULT and in what is the host's
at most. -/
structure State.KeepsRegisters (s t : State) : Prop where
  ops : t.ops = s.ops
  cmd : t.cmd = s.cmd
  status : t.status = s.status
  pending : t.pending = s.pending
  results : s.sameResults t

/-- The mark FAULT and the host's fields are no registers. -/
theorem State.keepsRegisters_of_host (s : State) (fault : Option HostFault) (events : List HostEvent)
    (returned : List Word) (wait : Nat) :
    s.KeepsRegisters { s with fault := fault, events := events, returned := returned, wait := wait } :=
  ⟨rfl, rfl, rfl, rfl, rfl, rfl, rfl, rfl, rfl, rfl, rfl, rfl⟩

/-- What one step can do. `quiet` is a step of an idle machine, a read, or an access that faults. -/
inductive State.StepsTo (s : State) : State → Prop
  | complete (p : Pending) (hp : s.pending = some p) (hc : s.completes = true) : StepsTo s (s.finish p.outcome)
  | quiet (t : State) (hk : s.KeepsRegisters t) (hf : s.fault.isSome = true → t.fault.isSome = true) : StepsTo s t
  | write (off width : Nat) (v : Word) (es : List HostEvent) (u : OperandWord) (hb : s.status.busy = false)
      (he : s.events = .write off width v :: es) (hu : wordAt off = some (.operand u)) :
      StepsTo s { s.taking es with ops := s.ops.write u v }
  | issue (width : Nat) (v : Word) (es : List HostEvent) (hb : s.status.busy = false)
      (he : s.events = .write 0x000 width v :: es)
      (hd : ∀ i, Sys2Proof.decode v = .ok i → operandsDefined i s.ops = true) :
      StepsTo s { (s.taking es).launch v with cmd := v }
  | reset (es : List HostEvent) (hr : s.takesReset) : StepsTo s (s.taking es).coreReset

/-- Only offset 0x000 is CMD (20_memory.md R52). -/
theorem checkAccess_cmd {off width : Nat} (h : checkAccess off width = .ok .cmd) : off = 0x000 := by
  obtain ⟨-, h4, hw⟩ := checkAccess_ok h
  exact (wordAt_some h4 hw).symm

/-- The step of the host's turn, event by event. -/
theorem State.stepsTo_event {s : State} {e : HostEvent} {es : List HostEvent} (hc : s.completes = false)
    (he : s.events = e :: es) : s.StepsTo ((s.taking es).event e) := by
  have faulted (r : HostFault) : s.StepsTo ((s.taking es).raiseHostFault r) :=
    .quiet _ (s.keepsRegisters_of_host _ _ _ _) fun _ => rfl
  cases e with
  | reset => exact .reset es ⟨hc, by rw [he]; rfl⟩
  | read off width =>
    cases h : hostRead off width (s.taking es) with
    | ok v =>
      simp only [State.event, h]
      exact .quiet _ (s.keepsRegisters_of_host _ _ _ _) id
    | error r => simp only [State.event, h]; exact faulted r
  | write off width v =>
    cases h : hostWrite off width v (s.taking es) with
    | error r => simp only [State.event, h]; exact faulted r
    | ok t =>
      simp only [State.event, h]
      obtain ⟨hb, ⟨ha, rfl, hd⟩ | ⟨u, ha, rfl⟩⟩ := hostWrite_ok h
      · obtain rfl := checkAccess_cmd ha
        exact .issue width v es hb he hd
      · exact .write off width v es u hb he (checkAccess_ok ha).2.2

/-- The inversion of a step: the completion of the command in flight, or the host's turn. -/
theorem stepsTo_of_step {s t : State} (h : step s = .next t) : s.StepsTo t := by
  cases hc : s.completes with
  | true =>
    obtain ⟨p, hp⟩ := State.pending_of_completes hc
    cases (step_of_completes hp hc).symm.trans h
    exact .complete p hp hc
  | false =>
    cases (step_of_not_completes hc).symm.trans h
    cases he : s.events with
    | nil =>
      rw [State.hostTurn_nil he]
      exact .quiet s (s.keepsRegisters_of_host _ _ _ _) id
    | cons e es => rw [State.hostTurn_eq_event he]; exact State.stepsTo_event hc he

/-! STATUS. -/

/-- The legal values, as propositions (10_state.md R28). -/
theorem Status.legal_iff (st : Status) :
    st.legal = true ↔ ¬(st.busy = true ∧ st.done = true) ∧ ¬(st.busy = true ∧ st.err = true) ∧
      ¬(st.done = true ∧ st.err = true) ∧ (st.ecode ≠ 0 ↔ st.err = true) := by
  obtain ⟨busy, done, err, ecode⟩ := st
  cases busy <;> cases done <;> cases err <;> simp [Status.legal]

theorem Status.atDone_eq (st : Status) : st.atDone = ⟨false, true, false, 0⟩ := rfl

theorem Status.atError_eq {st : Status} (h : st.done = false) (e : CoreError) :
    st.atError e = ⟨false, false, true, e.code⟩ := by
  simp [Status.atError, h]

/-! The invariant. -/

/-- An idle state meets the invariant when STATUS is legal and the result registers are whole. -/
theorem State.Inv.of_idle {s : State} (hp : s.pending = none) (hb : s.status.busy = false)
    (hl : s.status.legal = true) (hc : s.status.ecode.toNat ≤ 3)
    (hw : wholeOrNone s.doutDef ∧ wholeOrNone s.hashDef ∧ wholeOrNone s.priceDef ∧ wholeOrNone s.rkDef) : s.Inv where
  statusLegal := hl
  busyExact := by rw [hb, hp]; rfl
  snapshotLive := by simp [hp]
  cmdHeld := by simp [hp]
  operandsReady := by simp [hp]
  codeProduced := hc
  resultsWhole := hw

/-- The invariant is about the registers that `KeepsRegisters` compares. -/
theorem State.Inv.of_keepsRegisters {s t : State} (h : s.Inv) (hk : s.KeepsRegisters t) : t.Inv := by
  obtain ⟨hops, hcmd, hst, hp, -, -, -, -, hd, hh, hpr, hrk⟩ := hk
  exact {
    statusLegal := by rw [hst]; exact h.statusLegal
    busyExact := by rw [hst, hp]; exact h.busyExact
    snapshotLive := by rw [hp, hops]; exact h.snapshotLive
    cmdHeld := by rw [hp, hcmd]; exact h.cmdHeld
    operandsReady := by rw [hp]; exact h.operandsReady
    codeProduced := by rw [hst]; exact h.codeProduced
    resultsWhole := by rw [hd, hh, hpr, hrk]; exact h.resultsWhole }

theorem State.Inv.pending_eq_none {s : State} (h : s.Inv) (hb : s.status.busy = false) : s.pending = none := by
  simpa [hb] using h.busyExact

/-- While a command is in flight STATUS reads BUSY alone (10_state.md R28, R36). -/
theorem State.Inv.status_of_pending {s : State} {p : Pending} (h : s.Inv) (hp : s.pending = some p) :
    s.status.busy = true ∧ s.status.done = false ∧ s.status.err = false := by
  have hb : s.status.busy = true := by simpa [hp] using h.busyExact
  obtain ⟨hd, he, -, -⟩ := (Status.legal_iff _).1 h.statusLegal
  exact ⟨hb, by simpa [hb] using hd, by simpa [hb] using he⟩

/-- The STATUS a completion leaves: DONE alone, or ERR with its code (60_exceptions.md R243). -/
theorem State.Inv.finish_status_cases {s : State} {p : Pending} (h : s.Inv) (hp : s.pending = some p)
    (r : Except CoreError Result) :
    (∃ x, r = .ok x ∧ (s.finish r).status = ⟨false, true, false, 0⟩) ∨
      ∃ e, r = .error e ∧ (s.finish r).status = ⟨false, false, true, e.code⟩ := by
  obtain ⟨-, hd, -⟩ := h.status_of_pending hp
  cases r with
  | ok x => exact .inl ⟨x, rfl, by simp [Status.atDone_eq]⟩
  | error e => exact .inr ⟨e, rfl, by simp [Status.atError_eq hd]⟩

/-- A result write defines whole registers (60_exceptions.md R243, 10_state.md R37). -/
theorem State.finish_resultsWhole {s : State} (r : Except CoreError Result)
    (h : wholeOrNone s.doutDef ∧ wholeOrNone s.hashDef ∧ wholeOrNone s.priceDef ∧ wholeOrNone s.rkDef) :
    wholeOrNone (s.finish r).doutDef ∧ wholeOrNone (s.finish r).hashDef ∧ wholeOrNone (s.finish r).priceDef ∧
      wholeOrNone (s.finish r).rkDef := by
  have whole (n : Nat) : wholeOrNone (BitVec.allOnes n) := .inr rfl
  obtain ⟨hd, hh, hp, hr⟩ := h
  cases r with
  | error e => exact ⟨hd, hh, hp, hr⟩
  | ok x =>
    cases x with
    | schedule rk => exact ⟨hd, hh, hp, whole 32⟩
    | cipher rk d => exact ⟨whole 4, hh, hp, whole 32⟩
    | data d => exact ⟨whole 4, hh, hp, hr⟩
    | digest h => exact ⟨hd, whole 8, hp, hr⟩
    | price p => exact ⟨hd, hh, whole 8, hr⟩

/-- A completion keeps the invariant. -/
theorem State.Inv.finish {s : State} {p : Pending} (h : s.Inv) (hp : s.pending = some p)
    (r : Except CoreError Result) : (s.finish r).Inv := by
  have hw := State.finish_resultsWhole r h.resultsWhole
  rcases h.finish_status_cases hp r with ⟨x, -, hs⟩ | ⟨e, -, hs⟩
  · exact .of_idle (by simp) (by simp) (by rw [hs]; rfl) (by rw [hs]; decide) hw
  · exact .of_idle (by simp) (by simp) (by rw [hs]; cases e <;> rfl) (by rw [hs]; cases e <;> decide) hw

/-- An issue on an idle core gives a state that meets the invariant (60_exceptions.md R240). -/
theorem State.Inv.launch {s : State} (h : s.Inv) (v : Word)
    (hd : ∀ i, Sys2Proof.decode v = .ok i → operandsDefined i s.ops = true) :
    State.Inv { s.launch v with cmd := v } where
  statusLegal := rfl
  busyExact := rfl
  snapshotLive := by rintro p ⟨⟩; rfl
  cmdHeld := by rintro p ⟨⟩; rfl
  operandsReady := by rintro p i ⟨⟩ hi; exact hd i hi
  codeProduced := Nat.zero_le 3
  resultsWhole := h.resultsWhole

/-- The state after a core reset meets the invariant (70_reset_and_hazards.md R270). -/
theorem State.coreReset_inv (s : State) : s.coreReset.Inv :=
  .of_idle rfl rfl rfl (Nat.zero_le 3) ⟨.inl rfl, .inl rfl, .inl rfl, .inl rfl⟩

/-- Settles O8, case by case over what a step can do. -/
theorem invariantKept : Obligations.InvariantKept := by
  intro s t h hs
  cases stepsTo_of_step hs with
  | complete p hp hc => exact h.finish hp _
  | quiet _ hk _ => exact h.of_keepsRegisters hk
  | write off width v es u hb he hu =>
    exact .of_idle (h.pending_eq_none hb) hb h.statusLegal h.codeProduced h.resultsWhole
  | issue width v es hb he hd =>
    have taken : (s.taking es).Inv := h.of_keepsRegisters (s.keepsRegisters_of_host _ _ _ _)
    exact taken.launch v hd
  | reset es hr => exact State.coreReset_inv _

/-- Settles O9: the state at the start of the model is one after a core reset. -/
theorem invariantAtReset : Obligations.InvariantAtReset :=
  State.coreReset_inv State.reset

end Sys2Proof.Machine
end

section
/-! PROOFS. States that agree on their defined words: no step tells them apart (10_state.md R37, R40). -/

namespace Sys2Proof.Machine

/-! Operand words under a host write (20_memory.md R60). -/

theorem Operands.write_word_same (o : Operands) (u : OperandWord) (x : Word) : (o.write u x).word u = x := by
  cases u with
  | date => rfl
  | key n => exact getWord_setWord_same _ _ _ (by omega)
  | din n => exact getWord_setWord_same _ _ _ (by omega)
  | supply n => exact getWord_setWord_same _ _ _ (by omega)

theorem Operands.write_word_other (o : Operands) {u v : OperandWord} (x : Word) (h : v ≠ u) :
    (o.write u x).word v = o.word v := by
  cases u <;> cases v
  case key.key n m => exact getWord_setWord_other _ _ _ _ fun e => h (by rw [Fin.ext e])
  case din.din n m => exact getWord_setWord_other _ _ _ _ fun e => h (by rw [Fin.ext e])
  case supply.supply n m => exact getWord_setWord_other _ _ _ _ fun e => h (by rw [Fin.ext e])
  case date.date => exact absurd rfl h
  all_goals rfl

theorem Operands.write_defined_other (o : Operands) {u v : OperandWord} (x : Word) (h : v ≠ u) :
    (o.write u x).defined v = o.defined v := by
  have bit {w : Nat} (d : BitVec w) (n m : Fin w) (hnm : m ≠ n) : (setBit d n.val).getLsbD m.val = d.getLsbD m.val := by
    rw [setBit_getLsbD _ _ _ n.isLt]
    simp [show m.val ≠ n.val from fun e => hnm (Fin.ext e)]
  cases u <;> cases v
  case key.key n m => exact bit _ n m fun e => h (by rw [e])
  case din.din n m => exact bit _ n m fun e => h (by rw [e])
  case supply.supply n m => exact bit _ n m fun e => h (by rw [e])
  case date.date => exact absurd rfl h
  all_goals rfl

/-! Wide registers word by word (20_memory.md R51). -/

/-- Two registers that agree on their first `n` words agree on the bits of those words. -/
theorem extractLsb'_eq_of_getWord_eq {w n lo len : Nat} {a b : BitVec w} (hn : lo + len ≤ 32 * n)
    (h : ∀ k < n, getWord a k = getWord b k) : a.extractLsb' lo len = b.extractLsb' lo len := by
  apply BitVec.eq_of_getLsbD_eq
  intro j hj
  have hbit := congrArg (·.getLsbD ((lo + j) % 32)) (h ((lo + j) / 32) (by omega))
  simp only [getWord_getLsbD, Nat.div_add_mod, Nat.mod_lt _ (show 32 > 0 by decide), decide_true, Bool.true_and] at hbit
  simp only [BitVec.getLsbD_extractLsb', hj, hbit]

/-- Two registers that agree on all their words are the same. -/
theorem eq_of_getWord_eq {w n : Nat} {a b : BitVec w} (hn : w ≤ 32 * n) (h : ∀ k < n, getWord a k = getWord b k) :
    a = b := by
  have := extractLsb'_eq_of_getWord_eq (lo := 0) (len := w) (by omega) h
  simpa using this

/-! The operand registers. -/

theorem Operands.Same.defined_eq {a b : Operands} (h : a.Same b) (u : OperandWord) : a.defined u = b.defined u := by
  obtain ⟨hk, hd, ht, hs, -⟩ := h
  cases u <;> simp only [Operands.defined, hk, hd, ht, hs]

theorem Operands.Same.operandsDefined_eq {a b : Operands} (h : a.Same b) (i : Instr) :
    operandsDefined i a = operandsDefined i b := by
  simp only [operandsDefined, show a.defined = b.defined from funext h.defined_eq]

/-- A host write keeps the agreement: the written word is the same in both, the others as before. -/
theorem Operands.Same.write {a b : Operands} (h : a.Same b) (u : OperandWord) (x : Word) :
    (a.write u x).Same (b.write u x) := by
  have words (v : OperandWord) (hv : (a.write u x).defined v = true) : (a.write u x).word v = (b.write u x).word v := by
    by_cases huv : v = u
    · rw [huv, a.write_word_same, b.write_word_same]
    · rw [a.write_defined_other x huv] at hv
      rw [a.write_word_other x huv, b.write_word_other x huv, h.words v hv]
  obtain ⟨hk, hd, ht, hs, -⟩ := h
  cases u
  case key n => exact ⟨congrArg (setBit · n.val) hk, hd, ht, hs, words⟩
  case din n => exact ⟨hk, congrArg (setBit · n.val) hd, ht, hs, words⟩
  case date => exact ⟨hk, hd, congrArg (setBit · 0) ht, hs, words⟩
  case supply n => exact ⟨hk, hd, ht, congrArg (setBit · n.val) hs, words⟩

/-! A rule reads no word but those whose definedness is checked at issue (30_encoding.md R85, 10_state.md R22). -/

theorem Operands.Same.key_eq {a b : Operands} (h : a.Same b) (hd : ∀ u ∈ keyWords, a.defined u = true) :
    a.key = b.key :=
  eq_of_getWord_eq (n := 2) (by decide) fun k hk =>
    h.words (.key ⟨k, hk⟩) (hd _ ((by decide : ∀ n : Fin 2, OperandWord.key n ∈ keyWords) _))

theorem Operands.Same.supply_eq {a b : Operands} (h : a.Same b) (hd : ∀ u ∈ supplyWords, a.defined u = true) :
    a.supply = b.supply :=
  eq_of_getWord_eq (n := 8) (by decide) fun k hk =>
    h.words (.supply ⟨k, hk⟩) (hd _ ((by decide : ∀ n : Fin 8, OperandWord.supply n ∈ supplyWords) _))

theorem Operands.Same.dinWords_eq {a b : Operands} (h : a.Same b) {n : Nat} (hn : n ≤ 4)
    (hd : ∀ u ∈ dinWords n, a.defined u = true) : ∀ k < n, getWord a.din k = getWord b.din k := fun k hk =>
  have hmem : ∀ n ≤ 4, ∀ k : Fin 4, k.val < n → OperandWord.din k ∈ dinWords n := by decide
  h.words (.din ⟨k, by omega⟩) (hd _ (hmem n hn ⟨k, by omega⟩ hk))

theorem Operands.Same.din_eq {a b : Operands} (h : a.Same b) (hd : ∀ u ∈ dinWords 4, a.defined u = true) :
    a.din = b.din :=
  eq_of_getWord_eq (n := 4) (by decide) (h.dinWords_eq (by decide) hd)

theorem Operands.Same.dinBits_eq {a b : Operands} (h : a.Same b) {n lo len : Nat} (hn : n ≤ 4)
    (hb : lo + len ≤ 32 * n) (hd : ∀ u ∈ dinWords n, a.defined u = true) :
    a.din.extractLsb' lo len = b.din.extractLsb' lo len :=
  extractLsb'_eq_of_getWord_eq hb (h.dinWords_eq hn hd)

/-- A PERM command reads the words of its input only (30_encoding.md R86). -/
theorem Operands.Same.permResult_eq {a b : Operands} (h : a.Same b) {k : Nat} (hk : k ≤ 4) {n : Nat} (hn : n ≤ 32 * k)
    (hd : ∀ u ∈ dinWords k, a.defined u = true) (m : Nat) (t : List Nat) :
    permResult n m t a = permResult n m t b := by
  unfold permResult permInput
  rw [h.dinBits_eq hk (by omega) hd]

/-- On operands that agree on their defined words a command whose operand words are defined comes to the same end. -/
theorem Operands.Same.resultOf_eq {a b : Operands} (h : a.Same b) (i : Instr) (hd : operandsDefined i a = true) :
    resultOf i a = resultOf i b := by
  rw [operandsDefined_iff] at hd
  have left {us vs : List OperandWord} (hi : operandWords i = us ++ vs) : ∀ u ∈ us, a.defined u = true :=
    fun u hu => hd u (hi ▸ List.mem_append_left vs hu)
  have right {us vs : List OperandWord} (hi : operandWords i = us ++ vs) : ∀ u ∈ vs, a.defined u = true :=
    fun u hu => hd u (hi ▸ List.mem_append_right us hu)
  cases i
  case ksched =>
    show kschedResult a = kschedResult b
    unfold kschedResult
    rw [h.key_eq hd]
  case enc =>
    show encResult a = encResult b
    unfold encResult
    rw [h.key_eq (left rfl), h.din_eq (right rfl)]
  case dec =>
    show decResult a = decResult b
    unfold decResult
    rw [h.key_eq (left rfl), h.din_eq (right rfl)]
  case feist =>
    show feistResult a = feistResult b
    unfold feistResult feistHalf feistSubkey
    rw [h.dinBits_eq (n := 3) (lo := 0) (by decide) (by decide) hd,
      h.dinBits_eq (n := 3) (lo := 32) (by decide) (by decide) hd]
  case sbox =>
    show sboxResult a = sboxResult b
    unfold sboxResult sboxInput
    rw [h.dinBits_eq (n := 2) (by decide) (by decide) hd]
  case permIp => exact h.permResult_eq (k := 2) (by decide) (by decide) hd ..
  case permFp => exact h.permResult_eq (k := 2) (by decide) (by decide) hd ..
  case permE => exact h.permResult_eq (k := 1) (by decide) (by decide) hd ..
  case permP => exact h.permResult_eq (k := 1) (by decide) (by decide) hd ..
  case permPc1 => exact h.permResult_eq (k := 2) (by decide) (by decide) hd ..
  case permPc2 => exact h.permResult_eq (k := 2) (by decide) (by decide) hd ..
  case tokenid =>
    show tokenidResult a = tokenidResult b
    have hdate : a.date = b.date := h.words .date (hd _ (List.mem_cons_self ..))
    unfold tokenidResult
    rw [hdate, h.din_eq fun u hu => hd u (List.mem_cons_of_mem _ hu)]
  case mintp =>
    show mintpResult a = mintpResult b
    unfold mintpResult
    rw [h.supply_eq hd]
  case burnr =>
    show burnrResult a = burnrResult b
    unfold burnrResult
    rw [h.supply_eq hd]

/-! The state. -/

theorem Operands.Same.refl (o : Operands) : o.Same o := ⟨rfl, rfl, rfl, rfl, fun _ _ => rfl⟩

theorem samePending.refl (p : Option Pending) : samePending p p := by
  cases p with
  | none => trivial
  | some p => exact ⟨rfl, .refl _⟩

theorem State.Same.refl (s : State) : s.Same s :=
  ⟨.refl _, rfl, rfl, rfl, rfl, rfl, rfl, fun _ _ => rfl, .refl _, rfl, rfl, rfl, rfl, rfl⟩

theorem State.Same.defined_eq {s t : State} (h : s.Same t) (x : WindowWord) : s.defined x = t.defined x := by
  cases x with
  | operand u => exact h.ops.defined_eq u
  | cmd => rfl
  | status => rfl
  | dout n => exact congrArg (·.getLsbD n.val) h.doutDef
  | hash n => exact congrArg (·.getLsbD n.val) h.hashDef
  | price n => exact congrArg (·.getLsbD n.val) h.priceDef
  | rkLow i => exact congrArg (·.getLsbD (2 * i.val)) h.rkDef
  | rkHigh i => exact congrArg (·.getLsbD (2 * i.val + 1)) h.rkDef

theorem State.Same.completes_eq {s t : State} (h : s.Same t) : s.completes = t.completes := by
  have hp : s.pending.isSome = t.pending.isSome := by
    have := h.pending
    cases hs : s.pending <;> cases ht : t.pending <;> simp [hs, ht, samePending] at this ⊢
  unfold State.completes
  rw [hp, h.wait, h.events]

theorem State.Same.pending_of_some {s t : State} (h : s.Same t) {p : Pending} (hp : s.pending = some p) :
    ∃ q, t.pending = some q ∧ p.word = q.word ∧ p.snap.Same q.snap := by
  have hpq := h.pending
  rw [hp] at hpq
  cases hq : t.pending with
  | none => rw [hq] at hpq; exact hpq.elim
  | some q => rw [hq] at hpq; exact ⟨q, rfl, hpq⟩

/-- A legal command in flight comes to the same end on both, an illegal word as well. -/
theorem Pending.outcome_eq_of_same {s : State} {p q : Pending} (hi : s.Inv) (hp : s.pending = some p)
    (hw : p.word = q.word) (hs : p.snap.Same q.snap) : p.outcome = q.outcome := by
  cases hd : Sys2Proof.decode p.word with
  | error e => rw [Pending.outcome_of_illegal hd, Pending.outcome_of_illegal (hw ▸ hd)]
  | ok i =>
    rw [Pending.outcome_of_decode hd, Pending.outcome_of_decode (hw ▸ hd)]
    exact hs.resultOf_eq i (hi.operandsReady p i hp hd)

/-- A result write leaves a word as it was, or gives it a value that does not depend on the state. -/
theorem State.writeResult_word_cases (r : Result) (x : WindowWord) :
    (∀ s : State, (s.writeResult r).defined x = s.defined x ∧ (s.writeResult r).word x = s.word x) ∨
      ∀ s t : State, (s.writeResult r).word x = (t.writeResult r).word x := by
  cases r with
  | schedule rk =>
    cases x with
    | rkLow i | rkHigh i => exact .inr fun _ _ => rfl
    | _ => exact .inl fun _ => ⟨rfl, rfl⟩
  | cipher rk d =>
    cases x with
    | dout n | rkLow i | rkHigh i => exact .inr fun _ _ => rfl
    | _ => exact .inl fun _ => ⟨rfl, rfl⟩
  | data d =>
    cases x with
    | dout n => exact .inr fun _ _ => rfl
    | _ => exact .inl fun _ => ⟨rfl, rfl⟩
  | digest d =>
    cases x with
    | hash n => exact .inr fun _ _ => rfl
    | _ => exact .inl fun _ => ⟨rfl, rfl⟩
  | price p =>
    cases x with
    | price n => exact .inr fun _ _ => rfl
    | _ => exact .inl fun _ => ⟨rfl, rfl⟩

theorem State.Same.writeResult {s t : State} (h : s.Same t) (r : Result) : (s.writeResult r).Same (t.writeResult r) := by
  have words (x : WindowWord) (hx : (s.writeResult r).defined x = true) :
      (s.writeResult r).word x = (t.writeResult r).word x := by
    rcases State.writeResult_word_cases r x with kept | set
    · rw [(kept s).1] at hx
      rw [(kept s).2, (kept t).2, h.words x hx]
    · exact set s t
  cases r with
  | schedule rk => exact { h with rkDef := rfl, words := words }
  | cipher rk d => exact { h with rkDef := rfl, doutDef := rfl, words := words }
  | data d => exact { h with doutDef := rfl, words := words }
  | digest d => exact { h with hashDef := rfl, words := words }
  | price p => exact { h with priceDef := rfl, words := words }

/-! Updates that keep the agreement. -/

theorem State.Same.withStatus {s t : State} (h : s.Same t) (st : Status) :
    State.Same { s with status := st } { t with status := st } := by
  refine { h with status := rfl, words := fun x hx => ?_ }
  have hw := h.words x
  cases x with
  | status => rfl
  | _ => exact hw hx

theorem State.Same.withCmd {s t : State} (h : s.Same t) (w : Word) :
    State.Same { s with cmd := w } { t with cmd := w } := by
  refine { h with cmd := rfl, words := fun x hx => ?_ }
  have hw := h.words x
  cases x with
  | cmd => rfl
  | _ => exact hw hx

theorem State.Same.withOps {s t : State} (h : s.Same t) {a b : Operands} (hab : a.Same b) :
    State.Same { s with ops := a } { t with ops := b } := by
  refine { h with ops := hab, words := fun x hx => ?_ }
  have hw := h.words x
  cases x with
  | operand u => exact hab.words u hx
  | _ => exact hw hx

theorem State.Same.withPending {s t : State} (h : s.Same t) {p q : Option Pending} (hpq : samePending p q)
    (wait issues : Nat) :
    State.Same { s with pending := p, wait := wait, issues := issues }
      { t with pending := q, wait := wait, issues := issues } :=
  { h with pending := hpq, wait := rfl, issues := rfl }

/-- The end of a command with one outcome keeps the agreement. -/
theorem State.Same.finish {s t : State} (h : s.Same t) (r : Except CoreError Result) : (s.finish r).Same (t.finish r) := by
  cases r with
  | ok x =>
    have hx := h.writeResult x
    have := (hx.withStatus (t.writeResult x).status.atDone).withPending (p := none) (q := none) trivial 0 t.issues
    simpa [State.finishDone, h.status, h.issues] using this
  | error e =>
    have := (h.withStatus (t.status.atError e)).withPending (p := none) (q := none) trivial 0 t.issues
    simpa [State.raiseCoreError, h.status, h.issues] using this

/-! Host accesses. -/

/-- A host read answers the same on both: a word that is not defined is never handed out (10_state.md R37). -/
theorem State.Same.hostRead_eq {s t : State} (h : s.Same t) (off width : Nat) :
    hostRead off width s = hostRead off width t := by
  unfold hostRead
  cases checkAccess off width with
  | error r => rfl
  | ok x =>
    simp only [h.status, ← h.defined_eq x]
    cases hx : s.defined x with
    | true => rw [h.words x hx]
    | false => rfl

/-- The answers of one access on two states: the same fault, or states that agree on their defined words. -/
def sameAnswer : Except HostFault State → Except HostFault State → Prop
  | .ok s, .ok t => s.Same t
  | .error r, .error q => r = q
  | _, _ => False

theorem State.Same.launch {s t : State} (h : s.Same t) (w : Word) : (s.launch w).Same (t.launch w) := by
  have := (h.withStatus t.status.atIssue).withPending (p := some ⟨w, s.ops⟩) (q := some ⟨w, t.ops⟩) ⟨rfl, h.ops⟩
    (Config.latency t.issues) (t.issues + 1)
  simpa [State.launch, h.status, h.issues] using this

theorem State.Same.issue {s t : State} (h : s.Same t) (w : Word) : sameAnswer (s.issue w) (t.issue w) := by
  unfold State.issue
  cases Sys2Proof.decode w with
  | error e => exact h.launch w
  | ok i =>
    simp only [h.ops.operandsDefined_eq i]
    split
    · exact h.launch w
    · rfl

theorem State.Same.writeWord {s t : State} (h : s.Same t) (x : WindowWord) (v : Word) :
    sameAnswer (s.writeWord x v) (t.writeWord x v) := by
  cases x with
  | cmd =>
    have hi := h.issue v
    unfold State.writeWord
    cases hs : s.issue v <;> cases ht : t.issue v <;> rw [hs, ht] at hi
    case error.error => exact hi
    case ok.ok => exact State.Same.withCmd hi v
    all_goals exact hi.elim
  | operand u => exact h.withOps (h.ops.write u v)
  | _ => rfl

theorem State.Same.hostWrite {s t : State} (h : s.Same t) (off width : Nat) (v : Word) :
    sameAnswer (hostWrite off width v s) (hostWrite off width v t) := by
  unfold Machine.hostWrite
  cases checkAccess off width with
  | error r => rfl
  | ok x =>
    simp only [h.status]
    split
    · rfl
    · split
      · rfl
      · exact h.writeWord x v

theorem State.Same.coreReset {s t : State} (h : s.Same t) : s.coreReset.Same t.coreReset := by
  rw [show s.coreReset = t.coreReset by simp only [State.coreReset, h.fault, h.events, h.returned, h.issues]]
  exact .refl _

theorem State.Same.raiseHostFault {s t : State} (h : s.Same t) (r : HostFault) :
    (s.raiseHostFault r).Same (t.raiseHostFault r) :=
  { h with fault := rfl }

theorem State.Same.event {s t : State} (h : s.Same t) (e : HostEvent) : (s.event e).Same (t.event e) := by
  cases e with
  | reset => exact h.coreReset
  | read off width =>
    simp only [State.event, h.hostRead_eq off width]
    cases hostRead off width t with
    | ok v => exact { h with returned := congrArg (v :: ·) h.returned }
    | error r => exact h.raiseHostFault r
  | write off width v =>
    have hw := h.hostWrite off width v
    simp only [State.event]
    cases hs : Machine.hostWrite off width v s <;> cases ht : Machine.hostWrite off width v t <;> rw [hs, ht] at hw
    case ok.ok => exact hw
    case error.error => rw [show _ = _ from hw]; exact h.raiseHostFault _
    all_goals exact hw.elim

theorem State.Same.taking {s t : State} (h : s.Same t) (es : List HostEvent) : (s.taking es).Same (t.taking es) :=
  { h with events := rfl, wait := congrArg (· - 1) h.wait }

theorem State.Same.hostTurn {s t : State} (h : s.Same t) : s.hostTurn.Same t.hostTurn := by
  cases he : s.events with
  | nil => rw [State.hostTurn_nil he, State.hostTurn_nil (h.events ▸ he)]; exact h
  | cons e es =>
    rw [State.hostTurn_eq_event he, State.hostTurn_eq_event (h.events ▸ he)]
    exact (h.taking es).event e

/-- Settles O11: the completion reads words that were defined at issue only, and an access answers from defined words. -/
theorem undefinedWordsNeverMatter : Obligations.UndefinedWordsNeverMatter := by
  intro s t hi h
  cases hc : s.completes with
  | false =>
    exact ⟨_, _, step_of_not_completes hc, step_of_not_completes (h.completes_eq ▸ hc), h.hostTurn⟩
  | true =>
    obtain ⟨p, hp⟩ := State.pending_of_completes hc
    obtain ⟨q, hq, hw, hs⟩ := h.pending_of_some hp
    refine ⟨_, _, step_of_completes hp hc, step_of_completes hq (h.completes_eq ▸ hc), ?_⟩
    rw [Pending.outcome_eq_of_same hi hp hw hs]
    exact h.finish _

end Sys2Proof.Machine
end

section
/-! PROOFS. The life of STATUS and of FAULT, and the state after a reset (10_state.md R28 to R31, R38, R40). -/

namespace Sys2Proof.Machine

/-! STATUS as a word. -/

/-- STATUS bit by bit (10_state.md R28). -/
theorem Status.word_getLsbD (st : Status) (j : Nat) :
    st.word.getLsbD j =
      if j = 0 then st.busy else if j = 1 then st.done else if j = 2 then st.err
      else decide (8 ≤ j) && st.ecode.getLsbD (j - 8) := by
  have bits : st.word.getLsbD j = (0#16 ++ st.ecode ++ 0#5 ++ BitVec.ofBool st.err ++ BitVec.ofBool st.done ++
      BitVec.ofBool st.busy).getLsbD j := rfl
  simp only [bits, BitVec.getLsbD_append, BitVec.getLsbD_ofBool, BitVec.getLsbD_zero, Nat.sub_sub]
  obtain rfl | rfl | rfl | h3 : j = 0 ∨ j = 1 ∨ j = 2 ∨ 3 ≤ j := by omega
  · rfl
  · rfl
  · rfl
  · simp only [show ¬ j < 1 by omega, show ¬ j - 1 < 1 by omega, show ¬ j - 2 < 1 by omega, show j ≠ 0 by omega,
      show j ≠ 1 by omega, show j ≠ 2 by omega, if_false]
    rcases Nat.lt_or_ge j 8 with h8 | h8
    · simp [show j - 3 < 5 by omega, show ¬ 8 ≤ j by omega]
    · rcases Nat.lt_or_ge j 16 with h16 | h16
      · simp [show ¬ j - 3 < 5 by omega, show j - 8 < 8 by omega, h8]
      · simp [show ¬ j - 3 < 5 by omega, show ¬ j - 8 < 8 by omega, BitVec.getLsbD_of_ge st.ecode (j - 8) (by omega)]

/-- From bit 3 on STATUS holds ECODE at bit 8 and zeros (10_state.md R28). -/
theorem Status.word_getLsbD_of_ge (st : Status) {j : Nat} (h : 3 ≤ j) :
    st.word.getLsbD j = (decide (8 ≤ j) && st.ecode.getLsbD (j - 8)) := by
  rw [Status.word_getLsbD, if_neg (by omega), if_neg (by omega), if_neg (by omega)]

/-- Settles O51: bits of a concatenation, and the legal values of the invariant. -/
theorem statusLayout : Obligations.StatusLayout := by
  refine ⟨fun st => ⟨st.word_getLsbD 0, st.word_getLsbD 1, st.word_getLsbD 2, ?_, ?_, ?_⟩,
    fun s h => (Status.legal_iff _).1 h.statusLegal, rfl, fun _ _ => rfl⟩
  all_goals
    apply BitVec.eq_of_getLsbD_eq
    intro j hj
    rw [BitVec.getLsbD_extractLsb', st.word_getLsbD_of_ge (by omega)]
  · simp [show ¬ 8 ≤ 3 + j by omega]
  · simp [hj]
  · simp [BitVec.getLsbD_of_ge st.ecode (16 + j - 8) (by omega)]

/-! Issue and completion in STATUS. -/

/-- A write to CMD that goes through is an issue on an idle core (60_exceptions.md R240). -/
theorem hostWrite_cmd_ok {s t : State} {w : Word} (h : hostWrite 0x000 4 w s = .ok t) :
    t = { s.launch w with cmd := w } := by
  obtain ⟨-, ⟨-, ht, -⟩ | ⟨u, ha, -⟩⟩ := hostWrite_ok h
  · exact ht
  · cases (checkAccess_offset .cmd).symm.trans ha

theorem hostWrite_cmd_status {s t : State} {w : Word} (h : hostWrite 0x000 4 w s = .ok t) :
    t.status = ⟨true, false, false, 0⟩ := by
  rw [hostWrite_cmd_ok h]; rfl

theorem State.complete_next {s t : State} {p : Pending} (hp : s.pending = some p) (h : s.complete p = .next t) :
    t = s.finish p.outcome := by
  cases (State.complete_eq_finish hp).symm.trans h
  rfl

/-- What a step makes of STATUS, from a state that meets the invariant: it is kept but for an issue, a completion or a
reset (10_state.md R29 to R31). -/
theorem State.StepsTo.status {s t : State} (hi : s.Inv) (h : s.StepsTo t) :
    t.status = s.status ∨ s.issuedTo t ∨ s.completedTo t ∨ s.takesReset := by
  cases h with
  | complete p hp hc => exact .inr (.inr (.inl ⟨by rw [hp]; rfl, hc, State.finish_pending _ _⟩))
  | quiet _ hk _ => exact .inl hk.status
  | write off width v es u hb he hu => exact .inl rfl
  | issue width v es hb he hd => exact .inr (.inl ⟨hi.pending_eq_none hb, rfl⟩)
  | reset es hr => exact .inr (.inr (.inr hr))

/-- Settles O52: an issue and a completion say what BUSY becomes, and no other step but a reset changes STATUS. -/
theorem busyLifeCycle : Obligations.BusyLifeCycle := by
  refine ⟨fun s t w h => by rw [hostWrite_cmd_status h], ?_, ?_⟩
  · intro s t p hp h
    rw [State.complete_next hp h, State.finish_busy]
  · intro s t hi h hne
    exact ((stepsTo_of_step h).status hi).resolve_left fun he => hne (congrArg Status.busy he)

/-- A command in flight did not leave a report: a completion follows neither DONE nor ERR (10_state.md R28). -/
theorem State.Inv.not_completedTo {s t : State} (hi : s.Inv) (h : s.status.done = true ∨ s.status.err = true) :
    ¬ s.completedTo t := by
  rintro ⟨hp, -, -⟩
  obtain ⟨p, hp⟩ := Option.isSome_iff_exists.1 hp
  obtain ⟨-, hd, he⟩ := hi.status_of_pending hp
  simp [hd, he] at h

/-- A report stays in STATUS until the next issue or reset (10_state.md R30, R31). -/
theorem State.StepsTo.status_of_report {s t : State} (hi : s.Inv) (h : s.StepsTo t)
    (hr : s.status.done = true ∨ s.status.err = true) : t.status = s.status ∨ s.issuedTo t ∨ s.takesReset := by
  rcases h.status hi with hk | hissue | hdone | hreset
  · exact .inl hk
  · exact .inr (.inl hissue)
  · exact absurd hdone (hi.not_completedTo hr)
  · exact .inr (.inr hreset)

/-- Settles O53: a completion leaves DONE alone or ERR with a code, and a report stays in STATUS. -/
theorem doneLifeCycle : Obligations.DoneLifeCycle := by
  refine ⟨fun s t w h => by rw [hostWrite_cmd_status h], ?_, ?_⟩
  · intro s t p hi hp h
    rw [State.complete_next hp h]
    rcases hi.finish_status_cases hp p.outcome with ⟨_, -, hs⟩ | ⟨_, -, hs⟩ <;> rw [hs] <;> rfl
  · intro s t hi h hd
    exact ((stepsTo_of_step h).status_of_report hi (.inl hd)).imp_left fun he => by rw [he, hd]

/-- ILLEGAL_CMD is the outcome of the illegal words and of no command (60_exceptions.md R244). -/
theorem Pending.outcome_illegal_iff (p : Pending) :
    p.outcome = .error .illegalCmd ↔ ∃ e, Sys2Proof.decode p.word = .error e := by
  cases hd : Sys2Proof.decode p.word with
  | error e => simp [Pending.outcome_of_illegal hd]
  | ok i =>
    rw [Pending.outcome_of_decode hd]
    rcases resultOf_kind i p.snap with ⟨-, _, e⟩ | ⟨-, _, _, e⟩ | ⟨-, _, e⟩ | ⟨-, _, e⟩ | ⟨-, ⟨_, e⟩ | ⟨_, hne, e⟩⟩ <;>
      rw [e]
    case inr.inr.inr.inr.inr => simpa using hne
    all_goals simp

/-- Settles O54: the code a completion leaves is its outcome's, and a report stays in STATUS. -/
theorem errorReportLifeCycle : Obligations.ErrorReportLifeCycle := by
  refine ⟨fun s t w h => by rw [hostWrite_cmd_status h]; exact ⟨rfl, rfl⟩, ?_, ?_⟩
  · intro s t p hi hp h
    rw [State.complete_next hp h, ← p.outcome_illegal_iff]
    rcases hi.finish_status_cases hp p.outcome with ⟨_, hr, hs⟩ | ⟨e, hr, hs⟩
    · rw [hs, hr]
      exact ⟨.inl rfl, by simp⟩
    · rw [hs, hr]
      cases e <;> simp [CoreError.code]
  · intro s t hi h he
    exact ((stepsTo_of_step h).status_of_report hi (.inr he)).imp_left fun hs => by rw [hs]; exact ⟨he, rfl⟩

/-! FAULT. -/

/-- No step clears FAULT: an access that faults sets it, a reset keeps it, nothing else touches it (10_state.md R38). -/
theorem State.StepsTo.fault {s t : State} (h : s.StepsTo t) (hf : s.fault.isSome = true) : t.fault.isSome = true := by
  cases h with
  | complete p hp hc => rw [State.finish_fault]; exact hf
  | quiet _ hk hq => exact hq hf
  | write => exact hf
  | issue => exact hf
  | reset => exact hf

/-- A run of one step more begins with a step that answers a next state. -/
theorem run_succ_next {s t : State} {k : Nat} (h : Host.Core.run Sys2Proof.core (k + 1) s = .next t) :
    ∃ u, step s = .next u ∧ Host.Core.run Sys2Proof.core k u = .next t := by
  cases hs : step s with
  | next u => exact ⟨u, rfl, run_succ hs k ▸ h⟩
  | fault r => simp [Host.Core.run, show Sys2Proof.core.step s = _ from hs] at h
  | refused r => simp [Host.Core.run, show Sys2Proof.core.step s = _ from hs] at h

/-- The first steps of a run are a run, and the rest goes on from where they lead. -/
theorem run_split {s t : State} {j m : Nat} (h : Host.Core.run Sys2Proof.core (j + m) s = .next t) :
    ∃ u, Host.Core.run Sys2Proof.core j s = .next u ∧ Host.Core.run Sys2Proof.core m u = .next t := by
  induction j generalizing s with
  | zero => exact ⟨s, rfl, by simpa using h⟩
  | succ j ih =>
    rw [Nat.succ_add] at h
    obtain ⟨s', hs, h'⟩ := run_succ_next h
    obtain ⟨u, hu, hm⟩ := ih h'
    exact ⟨u, (run_succ hs j).trans hu, hm⟩

theorem run_keeps_fault {s t : State} {k : Nat} (h : Host.Core.run Sys2Proof.core k s = .next t)
    (hf : s.fault.isSome = true) : t.fault.isSome = true := by
  induction k generalizing s with
  | zero => cases h; exact hf
  | succ k ih =>
    obtain ⟨u, hs, h'⟩ := run_succ_next h
    exact ih h' ((stepsTo_of_step hs).fault hf)

theorem State.unfaulted_iff (s : State) : s.unfaulted ↔ ¬ s.fault.isSome = true := by
  simp [State.unfaulted]

/-- Settles O49, by induction on the run. -/
theorem faultIsNeverCleared : Obligations.FaultIsNeverCleared := by
  refine ⟨fun s t h => (stepsTo_of_step h).fault, ?_, ?_⟩
  · intro s t k j hjk h ht
    obtain ⟨m, rfl⟩ := Nat.exists_eq_add_of_le hjk
    obtain ⟨u, hu, hm⟩ := run_split h
    exact ⟨u, hu, (u.unfaulted_iff).2 fun hf => (t.unfaulted_iff).1 ht (run_keeps_fault hm hf)⟩
  · rintro s t k hf h ⟨-, -, ht⟩
    exact (t.unfaulted_iff).1 ht (run_keeps_fault h hf)

/-! Reset values. -/

/-- After a core reset no data word is defined, and a read of one faults (10_state.md R37, R40). -/
theorem State.coreReset_undefined (s : State) (x : WindowWord) (hc : x ≠ .cmd) (hs : x ≠ .status) :
    s.coreReset.defined x = false ∧ hostRead x.offset 4 s.coreReset = .error .undefRead := by
  have hd : s.coreReset.defined x = false := by
    cases x with
    | cmd => exact absurd rfl hc
    | status => exact absurd rfl hs
    | operand u => cases u <;> exact BitVec.getLsbD_zero
    | _ => exact BitVec.getLsbD_zero
  obtain ⟨hw, h4⟩ := wordAt_offset x
  exact ⟨hd, by rw [hostRead_mapped h4 hw, hd]; simp⟩

/-- Settles O12: the start of the model is a state after a core reset. -/
theorem resetValues : Obligations.ResetValues :=
  ⟨⟨rfl, rfl, rfl, rfl, State.coreReset_undefined State.reset⟩,
    fun s => ⟨rfl, by rw [State.coreReset_status]; rfl, rfl, rfl, s.coreReset_undefined⟩⟩

end Sys2Proof.Machine
end

section
/-! PROOFS. Who writes which register: the frame of each command, and the writers of the operand and result registers over
every step (10_state.md R22 to R27, R32 to R35). -/

namespace Sys2Proof.Machine

/-- Between `s` and `t` no result register changes but those that command `i` writes (30_encoding.md R85). -/
structure State.WritesOnly (s t : State) (i : Instr) : Prop where
  dout : i ∉ [Instr.enc, .dec, .feist, .sbox, .permIp, .permFp, .permE, .permP, .permPc1, .permPc2] →
    t.dout = s.dout ∧ t.doutDef = s.doutDef
  hash : i ≠ .tokenid → t.hash = s.hash ∧ t.hashDef = s.hashDef
  price : ¬(i = .mintp ∨ i = .burnr) → t.price = s.price ∧ t.priceDef = s.priceDef
  rk : i ∉ [Instr.ksched, .enc, .dec] → t.rk = s.rk ∧ t.rkDef = s.rkDef

/-- A command writes its own result registers, whatever its operands. -/
theorem State.finish_writesOnly (i : Instr) (s : State) (o : Operands) : s.WritesOnly (s.finish (resultOf i o)) i := by
  rcases resultOf_kind i o with ⟨rfl, rk, e⟩ | ⟨hi, rk, d, e⟩ | ⟨hi, d, e⟩ | ⟨rfl, h, e⟩ | ⟨hi, ⟨p, e⟩ | ⟨err, -, e⟩⟩ <;>
    rw [e]
  · exact ⟨fun _ => ⟨rfl, rfl⟩, fun _ => ⟨rfl, rfl⟩, fun _ => ⟨rfl, rfl⟩, fun h => absurd (by decide) h⟩
  · exact ⟨fun h => absurd hi fun hi => h ((by decide : ∀ i ∈ [Instr.enc, .dec], _) i hi),
      fun _ => ⟨rfl, rfl⟩, fun _ => ⟨rfl, rfl⟩, fun h => absurd (List.mem_cons_of_mem _ hi) h⟩
  · exact ⟨fun h => absurd (List.mem_cons_of_mem _ (List.mem_cons_of_mem _ hi)) h, fun _ => ⟨rfl, rfl⟩,
      fun _ => ⟨rfl, rfl⟩, fun _ => ⟨rfl, rfl⟩⟩
  · exact ⟨fun _ => ⟨rfl, rfl⟩, fun h => absurd rfl h, fun _ => ⟨rfl, rfl⟩, fun _ => ⟨rfl, rfl⟩⟩
  · exact ⟨fun _ => ⟨rfl, rfl⟩, fun _ => ⟨rfl, rfl⟩, fun h => absurd (by simpa using hi) h, fun _ => ⟨rfl, rfl⟩⟩
  · exact ⟨fun _ => ⟨rfl, rfl⟩, fun _ => ⟨rfl, rfl⟩, fun _ => ⟨rfl, rfl⟩, fun _ => ⟨rfl, rfl⟩⟩

/-- Settles O25: the end of a command keeps what `finish` keeps, and writes the command's own result registers. -/
theorem completionFrame : Obligations.CompletionFrame := by
  intro i s t h
  obtain ⟨p, -, rfl⟩ := exec_next h
  have w := s.finish_writesOnly i p.snap
  exact ⟨s.finish_ops _, s.finish_cmd _, s.finish_fault _, s.finish_events _, s.finish_returned _, s.finish_issues _,
    w.dout, w.hash, fun hm hb => w.price (not_or.2 ⟨hm, hb⟩), w.rk⟩

/-- The report of a completion is a function of its outcome; DONE is set where there is no error. -/
theorem State.finish_status_congr (s t : State) (r : Except CoreError Result) :
    (s.finish r).status.busy = (t.finish r).status.busy ∧ (s.finish r).status.err = (t.finish r).status.err ∧
      (s.finish r).status.ecode = (t.finish r).status.ecode ∧
      ((s.finish r).status.err = false → (s.finish r).status.done = (t.finish r).status.done) := by
  cases r with
  | ok x => exact ⟨by simp, by simp, by simp, fun _ => by simp⟩
  | error e => exact ⟨by simp, by simp, by simp, fun h => by simp at h⟩

/-- Each register a command writes gets a value that does not depend on the state. -/
theorem State.finish_results_congr (i : Instr) (o : Operands) (s t : State)
    (h : (s.finish (resultOf i o)).status.err = false) :
    (i ∈ [Instr.enc, .dec, .feist, .sbox, .permIp, .permFp, .permE, .permP, .permPc1, .permPc2] →
        (s.finish (resultOf i o)).dout = (t.finish (resultOf i o)).dout) ∧
      (i = .tokenid → (s.finish (resultOf i o)).hash = (t.finish (resultOf i o)).hash) ∧
      (i = .mintp ∨ i = .burnr → (s.finish (resultOf i o)).price = (t.finish (resultOf i o)).price) ∧
      (i ∈ [Instr.ksched, .enc, .dec] → (s.finish (resultOf i o)).rk = (t.finish (resultOf i o)).rk) := by
  rcases resultOf_kind i o with ⟨rfl, rk, e⟩ | ⟨hi, rk, d, e⟩ | ⟨hi, d, e⟩ | ⟨rfl, x, e⟩ | ⟨hi, ⟨p, e⟩ | ⟨err, -, e⟩⟩ <;>
    rw [e] at h ⊢
  · exact ⟨fun h => absurd h (by decide), nofun, nofun, fun _ => rfl⟩
  · have apart : ∀ i ∈ [Instr.enc, .dec], i ≠ .tokenid ∧ ¬(i = .mintp ∨ i = .burnr) := by decide
    exact ⟨fun _ => rfl, fun h => absurd h (apart i hi).1, fun h => absurd h (apart i hi).2, fun _ => rfl⟩
  · have apart : ∀ i ∈ [Instr.feist, .sbox, .permIp, .permFp, .permE, .permP, .permPc1, .permPc2],
        i ≠ .tokenid ∧ ¬(i = .mintp ∨ i = .burnr) ∧ i ∉ [Instr.ksched, .enc, .dec] := by decide
    obtain ⟨hhash, hprice, hrk⟩ := apart i hi
    exact ⟨fun _ => rfl, fun h => absurd h hhash, fun h => absurd h hprice, fun h => absurd h hrk⟩
  · exact ⟨fun h => absurd h (by decide), fun _ => rfl, nofun, fun h => absurd h (by decide)⟩
  · have apart : ∀ i ∈ [Instr.mintp, .burnr],
        i ∉ [Instr.enc, .dec, .feist, .sbox, .permIp, .permFp, .permE, .permP, .permPc1, .permPc2] ∧
          i ≠ .tokenid ∧ i ∉ [Instr.ksched, .enc, .dec] := by decide
    obtain ⟨hdout, hhash, hrk⟩ := apart i hi
    exact ⟨fun h => absurd h hdout, fun h => absurd h hhash, fun _ => rfl, fun h => absurd h hrk⟩
  · simp at h

/-- Settles O26: both states come to the end of one outcome, that of the common snapshot. -/
theorem resultsFromOperandsOnly : Obligations.ResultsFromOperandsOnly := by
  intro i s s' t t' p p' hp hp' hsnap h h'
  cases (exec_of_pending i s p hp).symm.trans h
  cases (exec_of_pending i s' p' hp').symm.trans h'
  rw [← hsnap]
  obtain ⟨hb, he, hc, hd⟩ := State.finish_status_congr s s' (resultOf i p.snap)
  exact ⟨hb, he, hc, fun h => ⟨hd h, State.finish_results_congr i p.snap s s' h⟩⟩

/-! Over every step. -/

/-- What a step makes of the result registers: they are kept, but for a reset and the completion of a command, which writes
its own. -/
theorem State.StepsTo.results {s t : State} (h : s.StepsTo t) :
    s.takesReset ∨ s.sameResults t ∨
      ∃ p i, s.pending = some p ∧ s.completes = true ∧ Sys2Proof.decode p.word = .ok i ∧ s.WritesOnly t i := by
  cases h with
  | complete p hp hc =>
    cases hd : Sys2Proof.decode p.word with
    | error e => rw [Pending.outcome_of_illegal hd]; exact .inr (.inl (s.raiseCoreError_sameResults _))
    | ok i => rw [Pending.outcome_of_decode hd]; exact .inr (.inr ⟨p, i, hp, hc, hd, s.finish_writesOnly i _⟩)
  | quiet _ hk _ => exact .inr (.inl hk.results)
  | write => exact .inr (.inl ⟨rfl, rfl, rfl, rfl, rfl, rfl, rfl, rfl⟩)
  | issue => exact .inr (.inl ⟨rfl, rfl, rfl, rfl, rfl, rfl, rfl, rfl⟩)
  | reset es hr => exact .inl hr

/-- Settles O55: a changed register is one that the command that completed writes. -/
theorem resultRegisterWriters : Obligations.ResultRegisterWriters := by
  intro s t h
  rcases (stepsTo_of_step h).results with hr | ⟨hd, hh, hp, hr, hdd, hhd, hpd, hrd⟩ | ⟨p, i, hp, hc, hi, w⟩
  · exact ⟨fun _ => .inl hr, fun _ => .inl hr, fun _ => .inl hr, fun _ => .inl hr⟩
  · exact ⟨fun h => absurd ⟨hd, hdd⟩ (not_and_or.2 h), fun h => absurd ⟨hh, hhd⟩ (not_and_or.2 h),
      fun h => absurd ⟨hp, hpd⟩ (not_and_or.2 h), fun h => absurd ⟨hr, hrd⟩ (not_and_or.2 h)⟩
  · refine ⟨fun h => .inr ⟨p, i, hp, hc, hi, ?_⟩, fun h => .inr ⟨p, hp, hc, ?_⟩, fun h => .inr ⟨p, i, hp, hc, hi, ?_⟩,
      fun h => .inr ⟨p, i, hp, hc, hi, ?_⟩⟩
    · exact by_contra fun hn => not_and_or.2 h (w.dout hn)
    · exact hi.trans (congrArg _ (by_contra fun hn => not_and_or.2 h (w.hash hn)))
    · exact by_contra fun hn => not_and_or.2 h (w.price (by simpa using hn))
    · exact by_contra fun hn => not_and_or.2 h (w.rk hn)

/-- Settles O56, case by case over what a step can do. -/
theorem operandAndCommandWriters : Obligations.OperandAndCommandWriters := by
  intro s t h
  cases stepsTo_of_step h with
  | complete p hp hc => exact ⟨fun h => absurd (s.finish_ops _) h, fun h => absurd (s.finish_cmd _) h⟩
  | quiet _ hk _ => exact ⟨absurd hk.ops, absurd hk.cmd⟩
  | write off width v es u hb he hu =>
    exact ⟨fun _ => .inr ⟨hb, off, width, v, es, u, he, hu, rfl⟩, absurd rfl⟩
  | issue width v es hb he hd => exact ⟨absurd rfl, fun _ => .inr ⟨hb, width, v, es, he, rfl, rfl⟩⟩
  | reset es hr => exact ⟨fun _ => .inl hr, fun _ => .inl hr⟩

end Sys2Proof.Machine
end

section
/-! PROOFS. The register window: its map, its place, the accesses that only fault, what a read answers and what a write of an
operand word sets, and several instances side by side (20_memory.md R50 to R61, R68). -/

namespace Sys2Proof.Machine

/-! The map (20_memory.md R51 to R53). -/

theorem getWord_getLsbD_of_lt {w : Nat} (v : BitVec w) (k : Nat) {j : Nat} (hj : j < 32) :
    (getWord v k).getLsbD j = v.getLsbD (32 * k + j) := by
  rw [getWord_getLsbD, decide_eq_true hj, Bool.true_and]

/-- RK[i] word 1 bit by bit: the upper 16 bits of the subkey, and zeros (20_memory.md R53). -/
theorem State.word_rkHigh_getLsbD (s : State) (i : Fin 16) (j : Nat) :
    (s.word (.rkHigh i)).getLsbD j = (decide (j < 16) && s.rk[i.val].getLsbD (32 + j)) := by
  by_cases hj : j < 16
  · simp [State.word, hj, show j < 32 by omega]
  · simp [State.word, hj]

/-- The unmapped offsets of the window are those of seven ranges (20_memory.md R52). -/
theorem wordAt_eq_none_iff : ∀ off, off < 0x200 → off % 4 = 0 → (wordAt off = none ↔
    (0x008 ≤ off ∧ off ≤ 0x00F) ∨ (0x018 ≤ off ∧ off ≤ 0x01F) ∨ (0x034 ≤ off ∧ off ≤ 0x03F) ∨
    (0x060 ≤ off ∧ off ≤ 0x07F) ∨ (0x090 ≤ off ∧ off ≤ 0x09F) ∨ (0x0E0 ≤ off ∧ off ≤ 0x0FF) ∨
    (0x180 ≤ off ∧ off ≤ 0x1FF)) := by
  decide +kernel

theorem WindowWord.readOnly_eq_false_iff (x : WindowWord) : x.readOnly = false ↔ x = .cmd ∨ ∃ u, x = .operand u := by
  cases x <;> simp [WindowWord.readOnly]

/-- Settles O43: each word stands at its own offset, and a word's bits are those of its register. -/
theorem registerMap : Obligations.RegisterMap := by
  refine ⟨⟨(wordAt_offset .cmd).1, (wordAt_offset .status).1, fun n => (wordAt_offset (.operand (.key n))).1,
      fun n => (wordAt_offset (.operand (.din n))).1, (wordAt_offset (.operand .date)).1,
      fun n => (wordAt_offset (.operand (.supply n))).1, fun n => (wordAt_offset (.dout n)).1,
      fun n => (wordAt_offset (.hash n)).1, fun n => (wordAt_offset (.price n)).1,
      fun i => ⟨(wordAt_offset (.rkLow i)).1, (wordAt_offset (.rkHigh i)).1⟩⟩,
    wordAt_eq_none_iff, WindowWord.readOnly_eq_false_iff, fun s j hj => ?_⟩
  have wide {w : Nat} (v : BitVec w) (k : Nat) : (getWord v k).getLsbD j = v.getLsbD (32 * k + j) :=
    getWord_getLsbD_of_lt v k hj
  have low (i : Fin 16) : (s.word (.rkLow i)).getLsbD j = s.rk[i.val].getLsbD j := by simp [State.word, hj]
  have high (i : Fin 16) : (s.word (.rkHigh i)).getLsbD j = s.rk[i.val].getLsbD (32 + j) := by
    rw [State.word_rkHigh_getLsbD]
    by_cases h16 : j < 16
    · simp [h16]
    · simp [h16, BitVec.getLsbD_of_ge s.rk[i.val] (32 + j) (by omega)]
  exact ⟨rfl, rfl, fun n => wide _ _, fun n => wide _ _, rfl, fun n => wide _ _, fun n => wide _ _, fun n => wide _ _,
    fun n => wide _ _, low, high⟩

/-- Settles O50: bit by bit, for RK[i] word 1; for STATUS by its layout. -/
theorem reservedBitsReadZero : Obligations.ReservedBitsReadZero := by
  refine ⟨fun s i => ⟨?_, ?_⟩, fun s => ?_⟩
  · apply BitVec.eq_of_getLsbD_eq
    intro j hj
    simp [State.word_rkHigh_getLsbD, hj]
  · apply BitVec.eq_of_getLsbD_eq
    intro j hj
    simp [State.word_rkHigh_getLsbD]
  · obtain ⟨-, -, -, low, -, high⟩ := statusLayout.1 s.status
    exact ⟨low, high⟩

/-! The place of the window (20_memory.md R50). -/

theorem Config.coreBase_mod (k : Nat) : Config.coreBase k % 0x200 = 0 :=
  Nat.mul_mod_right _ _

/-- An address below the window or behind it is not in it. -/
theorem inWindow_of_outside {k addr : Nat} (h : addr < Config.coreBase k ∨ Config.coreBase k + 0x200 ≤ addr) :
    ¬ inWindow k addr = true := by
  rw [inWindow_iff]
  omega

theorem inWindow_base_add (k : Nat) {off : Nat} (h : off < 0x200) : inWindow k (Config.coreBase k + off) = true :=
  inWindow_iff.2 ⟨Nat.le_add_right _ _, Nat.add_lt_add_left h _⟩

/-- Settles O44: an address in the window is its base and an offset, and an address is in one window at most. -/
theorem windowAtCoreBase : Obligations.WindowAtCoreBase := by
  refine ⟨fun k addr width v => ⟨Config.coreBase_mod k, fun off hoff haddr => ?_, fun hout => ?_⟩,
    fun j k addr hjk hj => ?_, fun off hoff => wordAt_beyond (by omega)⟩
  · subst haddr
    simp [windowRead, windowWrite, inWindow_base_add k hoff]
  · simp [windowRead, windowWrite, inWindow_of_outside hout]
  · exact Bool.eq_false_iff.2 fun hk => hjk (inWindow_unique hj hk)

/-! Accesses that only fault (20_memory.md R57, R58, 60_exceptions.md R250). -/

theorem checkAccess_badWidth {width : Nat} (off : Nat) (hw : width ≠ 4) : checkAccess off width = .error .badWidth :=
  if_pos hw

theorem checkAccess_misaligned {off : Nat} (h4 : off % 4 ≠ 0) : checkAccess off 4 = .error .misaligned := by
  simp [checkAccess, h4]

theorem checkAccess_unmapped {off : Nat} (h4 : off % 4 = 0) (h : wordAt off = none) :
    checkAccess off 4 = .error .unmapped := by
  simp [checkAccess, h4, h]

/-- A write that is refused sets FAULT to the reason, and nothing else. -/
theorem State.event_write_of_error {s : State} {off width : Nat} {v : Word} {r : HostFault}
    (h : hostWrite off width v s = .error r) : s.event (.write off width v) = { s with fault := some r } := by
  simp only [State.event, h, State.raiseHostFault]

/-- An access that does not pass the checks sets FAULT to the reason, and nothing else, be it a read or a write. -/
theorem State.event_of_checkAccess_error (s : State) {off width : Nat} (v : Word) {r : HostFault}
    (h : checkAccess off width = .error r) :
    s.event (.read off width) = { s with fault := some r } ∧
      s.event (.write off width v) = { s with fault := some r } := by
  refine ⟨?_, State.event_write_of_error (by simp only [hostWrite, h])⟩
  simp only [State.event, hostRead, h, State.raiseHostFault]

/-- STATUS, DOUT, HASH, PRICE and RK are the words that stand at these offsets (20_memory.md R52, R58). -/
theorem wordAt_readOnly {off : Nat} (h4 : off % 4 = 0)
    (h : off = 0x004 ∨ (0x080 ≤ off ∧ off < 0x090) ∨ (0x0A0 ≤ off ∧ off < 0x0E0) ∨ (0x100 ≤ off ∧ off < 0x180)) :
    ∃ x, wordAt off = some x ∧ x.readOnly = true := by
  have all : ∀ off < 0x180, off % 4 = 0 →
      (off = 0x004 ∨ (0x080 ≤ off ∧ off < 0x090) ∨ (0x0A0 ≤ off ∧ off < 0x0E0) ∨ (0x100 ≤ off ∧ off < 0x180)) →
      (wordAt off).any WindowWord.readOnly = true := by decide +kernel
  exact (Option.any_eq_true _ _).1 (all off (by omega) h4 h)

theorem hostWrite_readOnly {off : Nat} {x : WindowWord} (h4 : off % 4 = 0) (h : wordAt off = some x)
    (hx : x.readOnly = true) (v : Word) (s : State) : hostWrite off 4 v s = .error .roWrite := by
  rw [hostWrite_mapped h4 h, if_pos hx]

/-- Settles O45: the access checks in their order, and then RO_WRITE, before BUSY is looked at. -/
theorem misusedAccessOnlyFaults : Obligations.MisusedAccessOnlyFaults := by
  refine fun s off width v => ⟨fun hw => s.event_of_checkAccess_error v (checkAccess_badWidth off hw), ?_, ?_, ?_⟩
  · rintro rfl h4
    exact s.event_of_checkAccess_error v (checkAccess_misaligned h4)
  · rintro rfl h4 hn
    exact s.event_of_checkAccess_error v (checkAccess_unmapped h4 hn)
  · rintro rfl h4 hr
    obtain ⟨x, hx, hro⟩ := wordAt_readOnly h4 hr
    exact State.event_write_of_error (hostWrite_readOnly h4 hx hro v s)

/-! Reads (20_memory.md R59, 60_exceptions.md R247). -/

/-- The words that may be read while BUSY (70_reset_and_hazards.md R280). -/
theorem WindowWord.readableBusy_iff (x : WindowWord) : x.readableBusy = true ↔ x = .status ∨ x = .cmd := by
  cases x <;> simp [WindowWord.readableBusy]

/-- A read that BUSY does not shut out: UNDEF_READ, or the word. -/
theorem hostRead_allowed {off : Nat} {x : WindowWord} (h4 : off % 4 = 0) (h : wordAt off = some x) {s : State}
    (ha : s.status.busy = false ∨ x = .status ∨ x = .cmd) :
    hostRead off 4 s = if ¬ s.defined x then .error .undefRead else .ok (s.word x) := by
  rw [hostRead_mapped h4 h, if_neg]
  rintro ⟨hb, hx⟩
  rcases ha with hidle | hsc
  · rw [hidle] at hb; cases hb
  · exact hx (x.readableBusy_iff.2 hsc)

/-- Settles O47: the checks of a read in their order. -/
theorem readReturnsTheWord : Obligations.ReadReturnsTheWord := by
  refine fun s off x h4 h => ⟨fun hb hs hc => ?_, fun ha hd => ?_, fun ha hd => ?_, rfl, rfl⟩
  · rw [hostRead_mapped h4 h, if_pos ⟨hb, fun hx => (x.readableBusy_iff.1 hx).elim hs hc⟩]
  · simp [hostRead_allowed h4 h ha, hd]
  · have hr : hostRead off 4 s = .ok (s.word x) := by simp [hostRead_allowed h4 h ha, hd]
    exact ⟨hr, by simp only [State.event, hr]⟩

/-! Writes of an operand word (20_memory.md R60, R61). -/

theorem setWord_setWord_same {w : Nat} (v : BitVec w) (k : Nat) (x : Word) :
    setWord (setWord v k x) k x = setWord v k x := by
  apply BitVec.eq_of_getLsbD_eq
  intro j hj
  simp only [setWord_getLsbD]
  split <;> rfl

theorem setBit_setBit_same {w : Nat} (v : BitVec w) (k : Nat) : setBit (setBit v k) k = setBit v k := by
  rw [setBit, setBit, BitVec.or_assoc, BitVec.or_self]

theorem setBit_getLsbD_same {w : Nat} (v : BitVec w) (n : Fin w) : (setBit v n.val).getLsbD n.val = true := by
  simp [setBit_getLsbD _ _ _ n.isLt]

theorem Operands.write_defined_same (o : Operands) (u : OperandWord) (x : Word) : (o.write u x).defined u = true := by
  cases u with
  | key n => exact setBit_getLsbD_same _ n
  | din n => exact setBit_getLsbD_same _ n
  | date => exact setBit_getLsbD_same _ 0
  | supply n => exact setBit_getLsbD_same _ n

/-- The same write again changes nothing. -/
theorem Operands.write_write_same (o : Operands) (u : OperandWord) (x : Word) :
    (o.write u x).write u x = o.write u x := by
  cases u <;> simp only [Operands.write, setWord_setWord_same, setBit_setBit_same]

/-- A write of an operand word of an idle core goes through. -/
theorem hostWrite_operand {s : State} (hb : s.status.busy = false) (u : OperandWord) (v : Word) :
    hostWrite (WindowWord.operand u).offset 4 v s = .ok { s with ops := s.ops.write u v } := by
  obtain ⟨hw, h4⟩ := wordAt_offset (.operand u)
  simp [hostWrite_mapped h4 hw, WindowWord.readOnly, hb, State.writeWord]

/-- No other word of the window, and no other definedness bit, changes with an operand word. -/
theorem State.writeOps_other (s : State) {u : OperandWord} (v : Word) {x : WindowWord} (hx : x ≠ .operand u) :
    State.word { s with ops := s.ops.write u v } x = s.word x ∧
      State.defined { s with ops := s.ops.write u v } x = s.defined x := by
  cases x with
  | operand y =>
    have hy : y ≠ u := fun e => hx (by rw [e])
    exact ⟨s.ops.write_word_other v hy, s.ops.write_defined_other v hy⟩
  | _ => exact ⟨rfl, rfl⟩

/-- Settles O48: the write sets the operand registers alone, and of them the one word. -/
theorem operandWriteSetsOneWord : Obligations.OperandWriteSetsOneWord := by
  intro s u v hb
  refine ⟨_, hostWrite_operand hb u v, s.ops.write_word_same u v, s.ops.write_defined_same u v,
    fun x hx => s.writeOps_other v hx, rfl, rfl, rfl, ⟨rfl, rfl, rfl, rfl, rfl, rfl, rfl, rfl⟩, ?_⟩
  rw [hostWrite_operand (s := { s with ops := s.ops.write u v }) hb, s.ops.write_write_same]

/-! Several instances (20_memory.md R68). -/

theorem Platform.stepInstance_comm (p : Platform) {j k : Nat} (hjk : j ≠ k) :
    (p.stepInstance j).stepInstance k = (p.stepInstance k).stepInstance j := by
  apply Platform.ext_cores
  intro i
  simp only [Platform.stepInstance_cores]
  by_cases hj : j = i
  · simp [hj, show k ≠ i from fun hk => hjk (hj.trans hk.symm)]
  · simp [hj]

/-- An access leaves a core as it is to whose window it is no access. -/
theorem Platform.access_cores_of_none {a : BusAccess} {j : Nat} (h : a.eventAt j = none) (p : Platform) :
    (p.access a).cores[j]? = p.cores[j]? := by
  simp [Platform.access_cores, h]

/-- An access commutes with a step of a core to whose window it is no access. -/
theorem Platform.access_stepInstance_comm {a : BusAccess} {j : Nat} (h : a.eventAt j = none) (p : Platform) :
    (p.access a).stepInstance j = (p.stepInstance j).access a := by
  apply Platform.ext_cores
  intro i
  simp only [Platform.access_cores, Platform.stepInstance_cores]
  by_cases hi : j = i
  · subst hi; simp [h, Function.comp_def]
  · simp [hi]

/-- Two accesses of which no core gets both commute. -/
theorem Platform.access_comm {a b : BusAccess} (h : ∀ i, a.eventAt i = none ∨ b.eventAt i = none) (p : Platform) :
    (p.access a).access b = (p.access b).access a := by
  apply Platform.ext_cores
  intro i
  simp only [Platform.access_cores, Option.map_map]
  rcases h i with hi | hi <;> simp [hi, Function.comp_def]

/-- Settles O57: core by core, since an access is an event of one core at most. -/
theorem instancesCommute : Obligations.InstancesCommute := by
  intro p j k hjk
  refine ⟨?_, p.stepInstance_comm hjk, fun a e ha => ?_⟩
  · rw [Platform.stepInstance_cores, if_neg hjk.symm]
  · have hj : a.eventAt j = none := BusAccess.eventAt_other ha hjk
    refine ⟨?_, p.access_cores_of_none hj, p.access_stepInstance_comm hj,
      fun b f hb => p.access_comm (fun i => ?_)⟩
    · rw [Platform.access_cores, ha]
      rfl
    · by_cases hi : i = k
      · exact .inr (BusAccess.eventAt_other hb (hi ▸ hjk.symm))
      · exact .inl (BusAccess.eventAt_other ha hi)

end Sys2Proof.Machine
end

section
/-! PROOFS. Words, fields and commands: splitting a word into its fields drops no bit, the decoder answers a command exactly
on that command's fields, and it answers some command exactly on well-formed fields (30_encoding.md R80 to R83, R87, R90). -/

namespace Sys2Proof

open Sys2Proof.Laws

/-! Words and fields (30_encoding.md R80). -/

@[simp] theorem CommandFields.ofWord_op (w : Word) : (ofWord w).op = w.extractLsb' 0 8 := rfl

@[simp] theorem CommandFields.ofWord_sel (w : Word) : (ofWord w).sel = w.extractLsb' 8 4 := rfl

@[simp] theorem CommandFields.ofWord_res (w : Word) : (ofWord w).res = w.extractLsb' 12 20 := rfl

/-- SEL and RES are adjacent: together they are bits 31..8 of the word. -/
theorem extractLsb'_res_append_sel (w : Word) :
    w.extractLsb' 12 20 ++ w.extractLsb' 8 4 = w.extractLsb' 8 24 :=
  BitVec.extractLsb'_append_extractLsb'_eq_extractLsb' rfl

/-- The three fields cover the word, so that no bit is dropped. -/
theorem CommandFields.toWord_ofWord (w : Word) : (ofWord w).toWord = w := by
  rw [toWord, ofWord_op, ofWord_sel, ofWord_res, extractLsb'_res_append_sel]
  calc w.extractLsb' 8 24 ++ w.extractLsb' 0 8
    _ = w.extractLsb' 0 32 := BitVec.extractLsb'_append_extractLsb'_eq_extractLsb' rfl
    _ = w := BitVec.extractLsb'_eq_self

/-- Bits 31..8 are zero exactly when SEL and RES are. -/
theorem extractLsb'_sel_res_eq_zero_iff (w : Word) :
    w.extractLsb' 8 24 = 0 ↔ w.extractLsb' 8 4 = 0 ∧ w.extractLsb' 12 20 = 0 := by
  rw [← extractLsb'_res_append_sel]
  constructor
  · intro h
    have hs := congrArg (BitVec.extractLsb' 0 4) h
    have hr := congrArg (BitVec.extractLsb' 4 20) h
    rw [BitVec.extractLsb'_append_eq_right] at hs
    rw [BitVec.extractLsb'_append_eq_left] at hr
    exact ⟨hs, hr⟩
  · rintro ⟨hs, hr⟩
    rw [hs, hr]
    exact BitVec.zero_append_zero

/-! The fields of a command (30_encoding.md R81, R82). -/

theorem Instr.fieldsFit : (i : Instr) → FieldsFit.Statement i
  | .ksched => FieldsFit.ksched
  | .enc => FieldsFit.enc
  | .dec => FieldsFit.dec
  | .feist => FieldsFit.feist
  | .sbox => FieldsFit.sbox
  | .permIp => FieldsFit.permIp
  | .permFp => FieldsFit.permFp
  | .permE => FieldsFit.permE
  | .permP => FieldsFit.permP
  | .permPc1 => FieldsFit.permPc1
  | .permPc2 => FieldsFit.permPc2
  | .tokenid => FieldsFit.tokenid
  | .mintp => FieldsFit.mintp
  | .burnr => FieldsFit.burnr

theorem Instr.fields_wellFormed (i : Instr) : i.fields.wellFormed = true := i.fieldsFit.1

theorem ofWord_encode (i : Instr) : CommandFields.ofWord (encode i) = i.fields := i.fieldsFit.2.2

theorem encode_eq_iff_fields {i : Instr} {w : Word} : encode i = w ↔ i.fields = CommandFields.ofWord w := by
  constructor
  · rintro rfl
    exact (ofWord_encode i).symm
  · intro h
    rw [encode, h, CommandFields.toWord_ofWord]

/-! The decoder on fields (30_encoding.md R81 to R83). -/

/-- A row of the selector table is the command whose SEL it is. -/
theorem fields_of_decodePerm {n : Nat} {i : Instr} (h : decodePerm n = .ok i) :
    i.fields = ⟨0x06, BitVec.ofNat 4 n, 0⟩ := by
  unfold decodePerm at h
  split at h <;> cases h <;> rfl

/-- A row of the opcode table is the command whose OP it is. -/
theorem fields_of_decodeOp {n : Nat} {i : Instr} (h : decodeOp n = .ok i) :
    i.fields = ⟨BitVec.ofNat 8 n, 0, 0⟩ := by
  unfold decodeOp at h
  split at h <;> cases h <;> rfl

theorem decodePerm_total {n : Nat} (h : n ≤ 5) : ∃ i, decodePerm n = .ok i := by
  interval_cases n <;> exact ⟨_, rfl⟩

theorem decodeOp_total {n : Nat} (h : (1 ≤ n ∧ n ≤ 5) ∨ (7 ≤ n ∧ n ≤ 9)) : ∃ i, decodeOp n = .ok i := by
  obtain ⟨hl, hu⟩ | ⟨hl, hu⟩ := h <;> interval_cases n <;> exact ⟨_, rfl⟩

/-- The two ways in which fields decode to a command. -/
theorem decodeFields_eq_ok_iff {f : CommandFields} {i : Instr} :
    decodeFields f = .ok i ↔
      f.res = 0 ∧ ((f.op = 0x06 ∧ decodePerm f.sel.toNat = .ok i) ∨
        (f.op ≠ 0x06 ∧ decodeOp f.op.toNat = .ok i ∧ f.sel = 0)) := by
  unfold decodeFields
  split
  · next hr => simp only [hr, false_and, reduceCtorEq]
  · next hr =>
    rw [not_not] at hr
    split
    · next ho => simp [hr, ho]
    · next ho =>
      have ho : f.op ≠ 6#8 := ho
      cases decodeOp f.op.toNat with
      | error e => simp [ho]
      | ok j => by_cases hs : f.sel = 0#4 <;> simp [hr, ho, hs]

theorem decodeFields_fields (i : Instr) : decodeFields i.fields = .ok i := by
  cases i <;> rfl

/-- Fields decode to a command exactly when they are that command's own. -/
theorem decodeFields_eq_ok_iff_fields {f : CommandFields} {i : Instr} : decodeFields f = .ok i ↔ i.fields = f := by
  constructor
  · obtain ⟨op, sel, res⟩ := f
    intro h
    obtain ⟨rfl, ⟨rfl, hp⟩ | ⟨-, ho, rfl⟩⟩ := decodeFields_eq_ok_iff.1 h
    · rw [fields_of_decodePerm hp, BitVec.ofNat_toNat, BitVec.setWidth_eq]
    · rw [fields_of_decodeOp ho, BitVec.ofNat_toNat, BitVec.setWidth_eq]
  · rintro rfl
    exact decodeFields_fields i

/-- The cases of R83 on the fields. -/
theorem CommandFields.wellFormed_iff (f : CommandFields) :
    f.wellFormed = true ↔
      f.res = 0 ∧ ((f.op = 0x06 ∧ f.sel.toNat ≤ 5) ∨
        (f.sel = 0 ∧ ((1 ≤ f.op.toNat ∧ f.op.toNat ≤ 5) ∨ (7 ≤ f.op.toNat ∧ f.op.toNat ≤ 9)))) := by
  simp only [wellFormed, Bool.and_eq_true, Bool.or_eq_true, beq_iff_eq, decide_eq_true_eq]

/-- Some command has the fields exactly when they are well formed. -/
theorem exists_decodeFields_eq_ok_iff {f : CommandFields} :
    (∃ i, decodeFields f = .ok i) ↔ f.wellFormed = true := by
  constructor
  · rintro ⟨i, h⟩
    rw [← decodeFields_eq_ok_iff_fields.1 h]
    exact i.fields_wellFormed
  · intro h
    obtain ⟨hr, ⟨ho, hs⟩ | ⟨hs, ho⟩⟩ := f.wellFormed_iff.1 h
    · obtain ⟨i, hi⟩ := decodePerm_total hs
      exact ⟨i, decodeFields_eq_ok_iff.2 ⟨hr, .inl ⟨ho, hi⟩⟩⟩
    · obtain ⟨i, hi⟩ := decodeOp_total ho
      have hne : f.op ≠ 0x06 := fun h6 => by rw [h6] at ho; revert ho; decide
      exact ⟨i, decodeFields_eq_ok_iff.2 ⟨hr, .inr ⟨hne, hi, hs⟩⟩⟩

/-! The decoder on words (30_encoding.md R83, R87). -/

/-- A word decodes to a command exactly when it is the command's word. -/
theorem decode_eq_ok_iff {w : Word} {i : Instr} : decode w = .ok i ↔ encode i = w :=
  decodeFields_eq_ok_iff_fields.trans encode_eq_iff_fields.symm

theorem legalWord_iff_exists_decode (w : Word) : legalWord w = true ↔ ∃ i, decode w = .ok i :=
  exists_decodeFields_eq_ok_iff.symm

/-- The two cases of R83 on the bits of a word. -/
theorem legalWord_iff (w : Word) :
    legalWord w = true ↔
      (((1 ≤ (w.extractLsb' 0 8).toNat ∧ (w.extractLsb' 0 8).toNat ≤ 5) ∨
          (7 ≤ (w.extractLsb' 0 8).toNat ∧ (w.extractLsb' 0 8).toNat ≤ 9)) ∧ w.extractLsb' 8 24 = 0) ∨
        (w.extractLsb' 0 8 = 0x06 ∧ (w.extractLsb' 8 4).toNat ≤ 5 ∧ w.extractLsb' 12 20 = 0) := by
  rw [legalWord, CommandFields.wellFormed_iff, extractLsb'_sel_res_eq_zero_iff, CommandFields.ofWord_op,
    CommandFields.ofWord_sel, CommandFields.ofWord_res]
  tauto

/-- Settles O2: a word decodes to a command exactly when it is the command's word. -/
theorem decodeAndEncodeAgree : Obligations.DecodeAndEncodeAgree :=
  ⟨fun _ => decode_eq_ok_iff.2 rfl, fun _ _ => decode_eq_ok_iff.1⟩

/-- Settles O3: the words that decode are the legal ones, and those are the two cases. -/
theorem legalWordsExactly : Obligations.LegalWordsExactly := fun w =>
  ⟨(legalWord_iff_exists_decode w).symm.trans (legalWord_iff w), legalWord_iff_exists_decode w⟩

/-- Settles O1: the decoder's half says again what the encoder's half says, by `decode_eq_ok_iff`. -/
theorem commandWordsInHex : Obligations.CommandWordsInHex := by
  simp only [Obligations.CommandWordsInHex, decode_eq_ok_iff, and_self]
  decide

end Sys2Proof
end

section
/-! PROOFS. Permutation and rotation by DES positions, the fixed tables, and the six PERM commands (40_bitvector.md R100 to
R102, R106). -/

namespace Sys2Proof.Machine

/-! Permutation and rotation by DES positions (40_bitvector.md R100, R102). -/

/-- DES position `i` of a permuted value is the source position that entry `i` of the table names. -/
theorem pos_permute {n m : Nat} {t : List Nat} (ht : t.length = m) (v : BitVec n) {i : Nat} (h1 : 1 ≤ i) (hi : i ≤ m) :
    pos (permute m t v) i = pos v (t.getD (i - 1) 0) := by
  have hlt : i - 1 < t.length := by omega
  have hidx : m - 1 - (m - i) = i - 1 := by omega
  rw [pos, permute_getLsbD t ht, decide_eq_true (by omega : m - i < m), Bool.true_and, hidx,
    List.getD_eq_getElem _ _ hlt, List.getD_eq_getElem _ _ hlt]

/-- Settles O28: the second half is the first with `pos` written out in LSB-0 terms. -/
theorem permuteByPosition : Obligations.PermuteByPosition := fun _ _ _ v ht _ _ h1 hi =>
  ⟨pos_permute ht v h1 hi, pos_permute ht v h1 hi⟩

/-- DES position `j` of a rotated value is the position `n mod w` further on, counted round the end. -/
theorem pos_rotl {w : Nat} (v : BitVec w) (n : Nat) {j : Nat} (h1 : 1 ≤ j) (hj : j ≤ w) :
    pos (rotl v n) j = pos v ((j - 1 + n % w) % w + 1) := by
  have hs : n % w < w := Nat.mod_lt _ (by omega)
  have hbit : (w - j + (w - n % w)) % w = w - ((j - 1 + n % w) % w + 1) := by
    generalize n % w = k at hs
    rcases Nat.lt_or_ge (j - 1 + k) w with hin | hround
    · rw [Nat.mod_eq_of_lt hin, show w - j + (w - k) = w - (j - 1 + k + 1) + w by omega, Nat.add_mod_right,
        Nat.mod_eq_of_lt (by omega)]
    · rw [Nat.mod_eq_sub_mod hround, Nat.mod_eq_of_lt (by omega : j - 1 + k - w < w),
        Nat.mod_eq_of_lt (by omega : w - j + (w - k) < w)]
      omega
  rw [pos, rotl_getLsbD v n (w - j) (by omega), hbit, pos]

theorem rotl_of_mod_eq_zero {w : Nat} (v : BitVec w) {n : Nat} (h : n % w = 0) : rotl v n = v := by
  apply BitVec.eq_of_getLsbD_eq
  intro j hj
  rw [rotl_getLsbD v n j hj, h, Nat.sub_zero, Nat.add_mod_right, Nat.mod_eq_of_lt hj]

/-- Settles O30, position by position; a count that is a multiple of the width moves no bit. -/
theorem rotateByPosition : Obligations.RotateByPosition := fun _ v n _ =>
  ⟨fun _ h1 hj => pos_rotl v n h1 hj, rotl_of_mod_eq_zero v⟩

/-! The fixed tables (40_bitvector.md R101). -/

/-- Every row of every S-box holds each value a nibble can have. -/
theorem mem_row_of_mem_sboxes : ∀ box ∈ sboxes, ∀ row < 4, ∀ v < 16, v ∈ (box.drop (16 * row)).take 16 := by
  decide +kernel

/-- Settles O29: fixed data, looked through table by table. -/
theorem fixedTablesWellFormed : Obligations.FixedTablesWellFormed :=
  ⟨by decide, by decide, by decide, by decide, by decide, by decide, mem_row_of_mem_sboxes⟩

/-- The entries of a well-formed table are DES positions of its source. -/
theorem getD_bounds_of_tableWellFormed {n : Nat} {t : List Nat} (h : tableWellFormed n t = true) {k : Nat}
    (hk : k < t.length) : 1 ≤ t.getD k 0 ∧ t.getD k 0 ≤ n := by
  rw [List.getD_eq_getElem _ _ hk]
  simpa using List.all_eq_true.1 h _ (List.getElem_mem hk)

/-! The PERM commands (40_bitvector.md R106). -/

/-- Command `i` permutes `n` bits to `m` by the table `t`, which is well formed, has `m` entries, and whose result fits DOUT
(30_encoding.md R82). -/
structure IsPermRow (i : Instr) (n m : Nat) (t : List Nat) : Prop where
  rule : resultOf i = permResult n m t
  length : t.length = m
  wellFormed : tableWellFormed n t = true
  fits : m ≤ 128

/-- The table of 30_encoding.md R82. -/
theorem isPermRow_of_mem : ∀ row ∈ [(Instr.permIp, 64, 64, tableIP), (.permFp, 64, 64, tableFP), (.permE, 32, 48, tableE),
    (.permP, 32, 32, tableP), (.permPc1, 64, 56, tablePC1), (.permPc2, 56, 48, tablePC2)],
    IsPermRow row.1 row.2.1 row.2.2.1 row.2.2.2 := by
  obtain ⟨⟨wfIP, lenIP⟩, ⟨wfFP, lenFP⟩, ⟨wfE, lenE⟩, ⟨wfP, lenP⟩, ⟨wfPC1, lenPC1⟩, ⟨wfPC2, lenPC2⟩, -⟩ :=
    fixedTablesWellFormed
  simp only [List.forall_mem_cons]
  exact ⟨⟨rfl, lenIP, wfIP, by decide⟩, ⟨rfl, lenFP, wfFP, by decide⟩, ⟨rfl, lenE, wfE, by decide⟩,
    ⟨rfl, lenP, wfP, by decide⟩, ⟨rfl, lenPC1, wfPC1, by decide⟩, ⟨rfl, lenPC2, wfPC2, by decide⟩, nofun⟩

/-- The end of a command whose result is a value for DOUT. -/
theorem exec_of_data {i : Instr} {s : State} {p : Pending} (hp : s.pending = some p) {d : BitVec 128}
    (h : resultOf i p.snap = .ok (.data d)) :
    exec i s = .next { s with
      dout := d
      doutDef := BitVec.allOnes 4
      status := ⟨false, true, false, 0⟩
      pending := none
      wait := 0 } := by
  rw [exec_of_pending i s p hp, h]
  rfl

/-- A DES position of the input of a PERM command is a bit of DIN (30_encoding.md R86). -/
theorem pos_permInput {n : Nat} (o : Operands) {k : Nat} (h1 : 1 ≤ k) (hn : k ≤ n) :
    pos (permInput n o) k = o.din.getLsbD (n - k) := by
  rw [pos, permInput, BitVec.getLsbD_extractLsb', decide_eq_true (by omega : n - k < n), Bool.true_and, Nat.zero_add]

/-- What a PERM command puts into DOUT, bit by bit: the permuted bits of DIN. -/
theorem IsPermRow.getLsbD_result {i : Instr} {n m : Nat} {t : List Nat} (row : IsPermRow i n m t) (o : Operands) {j : Nat}
    (h1 : 1 ≤ j) (hj : j ≤ m) :
    ((permute m t (permInput n o)).setWidth 128).getLsbD (m - j) = o.din.getLsbD (n - t.getD (j - 1) 0) := by
  have hlen := row.length
  have hfits := row.fits
  obtain ⟨hlo, hhi⟩ := getD_bounds_of_tableWellFormed row.wellFormed (by omega : j - 1 < t.length)
  calc ((permute m t (permInput n o)).setWidth 128).getLsbD (m - j)
    _ = pos (permute m t (permInput n o)) j := by
      rw [BitVec.getLsbD_setWidth, decide_eq_true (by omega : m - j < 128), Bool.true_and, pos]
    _ = pos (permInput n o) (t.getD (j - 1) 0) := pos_permute hlen _ h1 hj
    _ = o.din.getLsbD (n - t.getD (j - 1) 0) := pos_permInput o hlo hhi

/-- Settles O21: one argument for all six rows of the table, from what `IsPermRow` says of each. -/
theorem permCommandsPermuteEveryBit : Obligations.PermCommandsPermuteEveryBit := by
  intro s p hp row hmem
  have hrow := isPermRow_of_mem row hmem
  refine ⟨_, exec_of_data hp (congrFun hrow.rule p.snap), fun j h1 hj => hrow.getLsbD_result p.snap h1 hj,
    fun j hj => ?_⟩
  rw [BitVec.getLsbD_setWidth, BitVec.getLsbD_of_ge _ _ hj, Bool.and_false]

end Sys2Proof.Machine
end

section
/-! PROOFS. The key schedule and KSCHED: rotations accumulate, parity bits are not read, and keys with constant halves
(41_key_schedule.md R122 to R127; 43_block_cipher.md R163 to R166). -/

namespace Sys2Proof.Machine

/-! Rotations accumulate (41_key_schedule.md R122, R127). -/

theorem rotl_rotl {w : Nat} (v : BitVec w) (a b : Nat) : rotl (rotl v a) b = rotl v (a + b) := by
  apply BitVec.eq_of_getLsbD_eq
  intro j hj
  have hw : 0 < w := by omega
  have hidx : ((j + (w - b % w)) % w + (w - a % w)) % w = (j + (w - (a + b) % w)) % w := by
    have ha : a % w < w := Nat.mod_lt _ hw
    have hb : b % w < w := Nat.mod_lt _ hw
    rw [Nat.mod_add_mod, Nat.add_mod a b]
    rcases Nat.lt_or_ge (a % w + b % w) w with hin | hround
    · rw [Nat.mod_eq_of_lt hin, ← Nat.add_mod_right (j + (w - (a % w + b % w)))]
      congr 1; omega
    · rw [Nat.mod_eq_sub_mod hround, Nat.mod_eq_of_lt (by omega : a % w + b % w - w < w)]
      congr 1; omega
  rw [rotl_getLsbD _ b j hj, rotl_getLsbD v a _ (Nat.mod_lt _ hw), rotl_getLsbD v _ j hj, hidx]

theorem rotateHalves_rotateHalves (cd : BitVec 28 × BitVec 28) (a b : Nat) :
    rotateHalves (rotateHalves cd a) b = rotateHalves cd (a + b) := by
  simp only [rotateHalves, rotl_rotl]

theorem rotateHalves_of_mod_eq_zero (cd : BitVec 28 × BitVec 28) {n : Nat} (h : n % 28 = 0) : rotateHalves cd n = cd := by
  simp only [rotateHalves, rotl_of_mod_eq_zero _ h]

/-- The subkey of a round comes from the halves turned by the sum of the shifts up to that round. -/
theorem subkeysFrom_getElem (cd : BitVec 28 × BitVec 28) (ns : List Nat) {i : Nat}
    (hi : i < (subkeysFrom cd ns).length) :
    (subkeysFrom cd ns)[i] = subkeyOf (rotateHalves cd (ns.take (i + 1)).sum) := by
  induction ns generalizing cd i with
  | nil => exact absurd hi (Nat.not_lt_zero i)
  | cons n ns ih =>
    cases i with
    | zero => simp [subkeysFrom]
    | succ i => simp [subkeysFrom, ih, rotateHalves_rotateHalves]

theorem keySchedule_getElem (key : BitVec 64) {i : Nat} (hi : i < 16) :
    (keySchedule key)[i] = subkeyOf (rotateHalves (keyHalves key) (shifts.take (i + 1)).sum) :=
  subkeysFrom_getElem (keyHalves key) shifts _

/-- Settles O31: `keySchedule_getElem` with the halves and the rotation of each written out. -/
theorem subkeysByAccumulatedShifts : Obligations.SubkeysByAccumulatedShifts :=
  fun key i => keySchedule_getElem key i.isLt

theorem foldl_rotateHalves (ns : List Nat) (cd : BitVec 28 × BitVec 28) :
    ns.foldl rotateHalves cd = rotateHalves cd ns.sum := by
  induction ns generalizing cd with
  | nil => exact (rotateHalves_of_mod_eq_zero cd rfl).symm
  | cons n ns ih => rw [List.foldl_cons, ih, rotateHalves_rotateHalves, List.sum_cons]

theorem shifts_sum : shifts.sum = 28 := by decide

/-- Settles O32: the sixteen rotations are one full turn. -/
theorem halvesComeBack : Obligations.HalvesComeBack :=
  ⟨shifts_sum, fun key => by
    rw [foldl_rotateHalves, rotateHalves_of_mod_eq_zero _ (by rw [shifts_sum])]⟩

/-! Parity bits (41_key_schedule.md R125). -/

/-- A permuted value depends on the positions in its table alone. -/
theorem permute_congr {n : Nat} (m : Nat) {t : List Nat} {v w : BitVec n} (h : ∀ p ∈ t, pos v p = pos w p) :
    permute m t v = permute m t w := by
  rw [permute, permute, List.map_congr_left h]

/-- PC-1 names no bit at a multiple of 8 (41_key_schedule.md R120, R125). -/
theorem tablePC1_avoids_parity : ∀ p ∈ tablePC1, (64 - p) % 8 ≠ 0 := by decide

theorem keyHalves_xor_parity (key : BitVec 64) {mask : BitVec 64} (h : ∀ j, mask.getLsbD j = true → j % 8 = 0) :
    keyHalves (key ^^^ mask) = keyHalves key := by
  have hpos : ∀ p ∈ tablePC1, pos (key ^^^ mask) p = pos key p := by
    intro p hp
    have hclear : mask.getLsbD (64 - p) = false :=
      Bool.eq_false_iff.2 fun hset => tablePC1_avoids_parity p hp (h _ hset)
    rw [pos, BitVec.getLsbD_xor, hclear, Bool.xor_false, pos]
  rw [keyHalves, permute_congr 56 hpos, keyHalves]

/-- The schedule is made from the halves alone. -/
theorem keySchedule_congr {key key' : BitVec 64} (h : keyHalves key = keyHalves key') :
    keySchedule key = keySchedule key' := by
  simp only [keySchedule, h]

/-- Settles O33: the key reaches the schedule, ENC and DEC only through its halves. -/
theorem parityBitsNeverMatter : Obligations.ParityBitsNeverMatter := by
  intro key mask hmask
  have hsk := keySchedule_congr (keyHalves_xor_parity key hmask)
  refine ⟨hsk, ?_⟩
  rintro o rfl
  exact ⟨by simp only [encResult, hsk], by simp only [decResult, hsk]⟩

/-! Tables that undo each other (43_block_cipher.md R161). -/

/-- Permuting by `t` and then by `s` changes nothing where position `s[k]` of `t` holds the position of `k`. -/
theorem permute_permute_of_inverse {n : Nat} {s t : List Nat} (hs : s.length = n) (ht : t.length = n)
    (hwf : tableWellFormed n s = true) (inv : ∀ k < n, t.getD (s.getD k 0 - 1) 0 = k + 1) (v : BitVec n) :
    permute n s (permute n t v) = v := by
  apply BitVec.eq_of_getLsbD_eq
  intro j hj
  obtain ⟨hlo, hhi⟩ := getD_bounds_of_tableWellFormed hwf (by omega : n - j - 1 < s.length)
  have hpos : pos (permute n s (permute n t v)) (n - j) = pos v (n - j) := by
    rw [pos_permute hs _ (by omega) (by omega), pos_permute ht _ hlo hhi, inv _ (by omega),
      Nat.sub_add_cancel (by omega : 1 ≤ n - j)]
  rwa [pos, pos, Nat.sub_sub_self hj.le] at hpos

theorem permute_tableFP_tableIP (x : Block) : permute 64 tableFP (permute 64 tableIP x) = x := by
  obtain ⟨⟨-, lenIP⟩, ⟨wfFP, lenFP⟩, -⟩ := fixedTablesWellFormed
  exact permute_permute_of_inverse lenFP lenIP wfFP (by decide) x

theorem permute_tableIP_tableFP (x : Block) : permute 64 tableIP (permute 64 tableFP x) = x := by
  obtain ⟨⟨wfIP, lenIP⟩, ⟨-, lenFP⟩, -⟩ := fixedTablesWellFormed
  exact permute_permute_of_inverse lenIP lenFP wfIP (by decide) x

/-! The rounds run backwards (43_block_cipher.md R163 to R165, R169). -/

theorem extractLsb'_append_halves {w : Nat} (v : BitVec (w + w)) : v.extractLsb' w w ++ v.extractLsb' 0 w = v := by
  rw [BitVec.extractLsb'_append_extractLsb'_eq_extractLsb' (Nat.zero_add w).symm, BitVec.extractLsb'_eq_self]

theorem initialSplit_finalJoin (lr : Half × Half) : initialSplit (finalJoin lr) = lr.swap := by
  rw [initialSplit, finalJoin, permute_tableIP_tableFP, BitVec.extractLsb'_append_eq_left,
    BitVec.extractLsb'_append_eq_right, Prod.swap]

theorem finalJoin_swap_initialSplit (b : Block) : finalJoin (initialSplit b).swap = b := by
  rw [finalJoin, initialSplit, Prod.fst_swap, Prod.snd_swap, extractLsb'_append_halves (w := 32),
    permute_tableFP_tableIP]

/-- A round on the exchanged halves undoes the round with the same subkey. -/
theorem feistelRound_swap (lr : Half × Half) (k : Subkey) : feistelRound (feistelRound lr k).swap k = lr.swap := by
  simp only [feistelRound, Prod.swap, BitVec.xor_assoc, BitVec.xor_self, BitVec.xor_zero]

theorem feistelRounds_swap_reverse (lr : Half × Half) (ks : List Subkey) :
    feistelRounds (feistelRounds lr ks).swap ks.reverse = lr.swap := by
  induction ks generalizing lr with
  | nil => rfl
  | cons k ks ih =>
    have hrest : feistelRounds (feistelRounds (feistelRound lr k) ks).swap ks.reverse = (feistelRound lr k).swap := ih _
    simp only [feistelRounds, List.foldl_cons, List.reverse_cons, List.foldl_append, List.foldl_nil] at hrest ⊢
    rw [hrest, feistelRound_swap]

/-- A block goes back when the same subkeys are used in the opposite order. -/
theorem desBlock_desBlock {sk : Vector Subkey 16} {dir dir' : Direction}
    (h : roundKeys dir' sk = (roundKeys dir sk).reverse) (b : Block) : desBlock (desBlock b sk dir) sk dir' = b := by
  rw [desBlock, desBlock, h, initialSplit_finalJoin, feistelRounds_swap_reverse, finalJoin_swap_initialSplit]

theorem desEcb_desEcb {sk : Vector Subkey 16} {dir dir' : Direction}
    (h : roundKeys dir' sk = (roundKeys dir sk).reverse) (x : BitVec 128) : desEcb (desEcb x sk dir) sk dir' = x := by
  rw [desEcb, desEcb, BitVec.extractLsb'_append_eq_left, BitVec.extractLsb'_append_eq_right, desBlock_desBlock h,
    desBlock_desBlock h, extractLsb'_append_halves (w := 64)]

/-! Keys with constant halves (41_key_schedule.md R126, 43_block_cipher.md R166, Corner cases). -/

theorem rotl_of_constant {w : Nat} {v : BitVec w} (h : v = 0 ∨ v = BitVec.allOnes w) (n : Nat) : rotl v n = v := by
  apply BitVec.eq_of_getLsbD_eq
  intro j hj
  have hmod : (j + (w - n % w)) % w < w := Nat.mod_lt _ (by omega)
  rw [rotl_getLsbD v n j hj]
  obtain rfl | rfl := h
  · rw [BitVec.ofNat_eq_ofNat, BitVec.getLsbD_zero, BitVec.getLsbD_zero]
  · rw [BitVec.getLsbD_allOnes, BitVec.getLsbD_allOnes, decide_eq_true hmod, decide_eq_true hj]

/-- Constant halves are turned into themselves, so that every round gets the same subkey. -/
theorem keySchedule_of_constant {key : BitVec 64}
    (hc : (keyHalves key).1 = 0 ∨ (keyHalves key).1 = BitVec.allOnes 28)
    (hd : (keyHalves key).2 = 0 ∨ (keyHalves key).2 = BitVec.allOnes 28) :
    keySchedule key = Vector.replicate 16 (subkeyOf (keyHalves key)) := by
  apply Vector.ext
  intro i hi
  rw [keySchedule_getElem key hi, rotateHalves, rotl_of_constant hc, rotl_of_constant hd, Vector.getElem_replicate]

theorem roundKeys_replicate (dir : Direction) (k : Subkey) :
    roundKeys dir (Vector.replicate 16 k) = List.replicate 16 k := by
  cases dir with
  | enc => rfl
  | dec => rfl

/-- Settles O34: sixteen equal subkeys read the same in both orders, so that encryption undoes itself. -/
theorem weakKeysEncryptAsTheyDecrypt : Obligations.WeakKeysEncryptAsTheyDecrypt := by
  intro key hc hd
  rw [keySchedule_of_constant hc hd]
  refine ⟨fun i j => by rw [Vector.getElem_replicate, Vector.getElem_replicate], fun x => ⟨?_, ?_⟩⟩
  · simp only [desEcb, desBlock, roundKeys_replicate]
  · exact desEcb_desEcb (by rw [roundKeys_replicate, List.reverse_replicate]) x

/-! KSCHED (41_key_schedule.md R126). -/

/-- The end of a command whose result is a schedule. -/
theorem exec_of_schedule {i : Instr} {s : State} {p : Pending} (hp : s.pending = some p) {rk : Vector Subkey 16}
    (h : resultOf i p.snap = .ok (.schedule rk)) :
    exec i s = .next { s with
      rk := rk
      rkDef := BitVec.allOnes 32
      status := ⟨false, true, false, 0⟩
      pending := none
      wait := 0 } := by
  rw [exec_of_pending i s p hp, h]
  rfl

/-- Settles O16: KSCHED's result is the schedule of the snapshot's KEY. -/
theorem kschedWritesTheSchedule : Obligations.KschedWritesTheSchedule :=
  fun _ _ hp => exec_of_schedule hp rfl

end Sys2Proof.Machine
end

section
/-! PROOFS. FEIST and SBOX, and complementation: the round function does not see it, the schedule and the cipher pass it
on (42_feistel.md R144 to R149; 43_block_cipher.md R166). -/

namespace Sys2Proof.Machine

/-! FEIST and SBOX (42_feistel.md R148, R149). -/

/-- Settles O19: FEIST's result is the round function of the snapshot's operands, with `sBoxLayer` between E and P. -/
theorem feistEvaluatesTheRoundFunction : Obligations.FeistEvaluatesTheRoundFunction :=
  ⟨fun _ _ hp => exec_of_data hp rfl, fun _ _ => ⟨_, sBoxLayer_isSBoxLayer _, rfl⟩⟩

/-- Zero-extended to the width of DOUT, a half has 96 clear bits above it. -/
theorem setWidth_half_eq_append (y : Half) : y.setWidth 128 = (0 : BitVec 96) ++ y :=
  BitVec.setWidth_eq_append (by decide)

theorem resultOf_sbox (o : Operands) : resultOf .sbox o = .ok (.data ((0 : BitVec 96) ++ sBoxLayer (sboxInput o))) := by
  rw [← setWidth_half_eq_append]
  rfl

/-- Settles O20: SBOX's result is the S-box layer of the snapshot's DIN[47:0]. -/
theorem sboxLooksUpEveryGroup : Obligations.SboxLooksUpEveryGroup :=
  fun _ p hp => ⟨_, sBoxLayer_isSBoxLayer _, exec_of_data hp (resultOf_sbox p.snap)⟩

/-! Complementation of the datapath primitives (40_bitvector.md R100, R102). -/

theorem pos_not {n : Nat} (v : BitVec n) {p : Nat} (h1 : 1 ≤ p) (hn : p ≤ n) : pos (~~~v) p = !pos v p := by
  rw [pos, BitVec.getLsbD_not, decide_eq_true (by omega : n - p < n), Bool.true_and, pos]

/-- A permutation moves bits and makes none, so that it passes a complement on. -/
theorem permute_not {n m : Nat} {t : List Nat} (ht : t.length = m) (hwf : tableWellFormed n t = true) (v : BitVec n) :
    permute m t (~~~v) = ~~~permute m t v := by
  apply BitVec.eq_of_getLsbD_eq
  intro j hj
  obtain ⟨hlo, hhi⟩ := getD_bounds_of_tableWellFormed hwf (by omega : m - j - 1 < t.length)
  have hpos : pos (permute m t (~~~v)) (m - j) = pos (~~~permute m t v) (m - j) := by
    rw [pos_permute ht _ (by omega) (by omega), pos_not v hlo hhi, pos_not _ (by omega) (by omega),
      pos_permute ht _ (by omega) (by omega)]
  rwa [pos, pos, Nat.sub_sub_self hj.le] at hpos

theorem rotl_not {w : Nat} (v : BitVec w) (n : Nat) : rotl (~~~v) n = ~~~rotl v n := by
  apply BitVec.eq_of_getLsbD_eq
  intro j hj
  have hmod : (j + (w - n % w)) % w < w := Nat.mod_lt _ (by omega)
  rw [rotl_getLsbD _ n j hj, BitVec.getLsbD_not, BitVec.getLsbD_not, rotl_getLsbD v n j hj, decide_eq_true hmod,
    decide_eq_true hj]

/-- The core library's `BitVec.extractLsb'_not_of_lt` wants a bit above the part; here the part may reach the top. -/
theorem extractLsb'_not {w start len : Nat} (v : BitVec w) (h : start + len ≤ w) :
    (~~~v).extractLsb' start len = ~~~v.extractLsb' start len := by
  apply BitVec.eq_of_getLsbD_eq
  intro j hj
  simp only [BitVec.getLsbD_extractLsb', BitVec.getLsbD_not, decide_eq_true hj,
    decide_eq_true (by omega : start + j < w), Bool.true_and]

/-! Complementation of the round function (42_feistel.md R148). -/

/-- Complementing both inputs changes nothing: the complement of E(R) meets that of K in the XOR. -/
theorem feistelF_not (r : Half) (k : Subkey) : feistelF (~~~r) (~~~k) = feistelF r k := by
  obtain ⟨-, -, ⟨wfE, lenE⟩, -⟩ := fixedTablesWellFormed
  rw [feistelF, permute_not lenE wfE, ← BitVec.not_xor_left, ← BitVec.not_xor_right, BitVec.not_not, feistelF]

/-! Complementation of the key schedule (41_key_schedule.md R122, R123). -/

/-- Both halves complemented. -/
def complementHalves {w : Nat} (lr : BitVec w × BitVec w) : BitVec w × BitVec w :=
  (~~~lr.1, ~~~lr.2)

theorem keyHalves_not (key : BitVec 64) : keyHalves (~~~key) = complementHalves (keyHalves key) := by
  obtain ⟨-, -, -, -, ⟨wfPC1, lenPC1⟩, -⟩ := fixedTablesWellFormed
  rw [keyHalves, permute_not lenPC1 wfPC1, extractLsb'_not _ (by decide), extractLsb'_not _ (by decide),
    complementHalves, keyHalves]

theorem rotateHalves_complementHalves (cd : BitVec 28 × BitVec 28) (n : Nat) :
    rotateHalves (complementHalves cd) n = complementHalves (rotateHalves cd n) := by
  simp only [rotateHalves, complementHalves, rotl_not]

theorem subkeyOf_complementHalves (cd : BitVec 28 × BitVec 28) : subkeyOf (complementHalves cd) = ~~~subkeyOf cd := by
  obtain ⟨-, -, -, -, -, ⟨wfPC2, lenPC2⟩, -⟩ := fixedTablesWellFormed
  rw [subkeyOf, complementHalves, ← BitVec.not_append, permute_not lenPC2 wfPC2, subkeyOf]

/-- The complemented key has the complemented subkeys. -/
theorem keySchedule_not (key : BitVec 64) : keySchedule (~~~key) = (keySchedule key).map (~~~·) := by
  apply Vector.ext
  intro i hi
  rw [Vector.getElem_map, keySchedule_getElem _ hi, keySchedule_getElem key hi, keyHalves_not,
    rotateHalves_complementHalves, subkeyOf_complementHalves]

/-! Complementation of the cipher (43_block_cipher.md R162 to R166). -/

theorem roundKeys_map (dir : Direction) (f : Subkey → Subkey) (sk : Vector Subkey 16) :
    roundKeys dir (sk.map f) = (roundKeys dir sk).map f := by
  cases dir with
  | enc => exact Vector.toList_map
  | dec => rw [roundKeys, Vector.toList_map, ← List.map_reverse, roundKeys]

theorem initialSplit_not (b : Block) : initialSplit (~~~b) = complementHalves (initialSplit b) := by
  obtain ⟨⟨wfIP, lenIP⟩, -⟩ := fixedTablesWellFormed
  rw [initialSplit, permute_not lenIP wfIP, extractLsb'_not _ (by decide), extractLsb'_not _ (by decide),
    complementHalves, initialSplit]

theorem finalJoin_complementHalves (lr : Half × Half) : finalJoin (complementHalves lr) = ~~~finalJoin lr := by
  obtain ⟨-, ⟨wfFP, lenFP⟩, -⟩ := fixedTablesWellFormed
  rw [finalJoin, complementHalves, ← BitVec.not_append, permute_not lenFP wfFP, finalJoin]

/-- A round passes the complement on: the same value of `feistelF` is XORed into the complemented left half. -/
theorem feistelRound_not (lr : Half × Half) (k : Subkey) :
    feistelRound (complementHalves lr) (~~~k) = complementHalves (feistelRound lr k) := by
  simp only [feistelRound, complementHalves, feistelF_not, BitVec.not_xor_left]

theorem feistelRounds_map_not (lr : Half × Half) (ks : List Subkey) :
    feistelRounds (complementHalves lr) (ks.map (~~~·)) = complementHalves (feistelRounds lr ks) := by
  rw [feistelRounds, List.foldl_map, List.foldl_hom complementHalves feistelRound_not, feistelRounds]

theorem desBlock_not (b : Block) (sk : Vector Subkey 16) (dir : Direction) :
    desBlock (~~~b) (sk.map (~~~·)) dir = ~~~desBlock b sk dir := by
  rw [desBlock, initialSplit_not, roundKeys_map, feistelRounds_map_not, finalJoin_complementHalves, desBlock]

/-- Settles O38: the subkeys of the complemented key are the complemented subkeys, and the cipher passes both on. -/
theorem cipherComplement : Obligations.CipherComplement :=
  ⟨feistelF_not, fun b key dir => by rw [keySchedule_not, desBlock_not]⟩

end Sys2Proof.Machine
end

section
/-! PROOFS. The block cipher: its tables undo each other, its rounds one by one, and ENC and DEC (43_block_cipher.md R161
to R169). -/

namespace Sys2Proof.Machine

/-! IP and FP (43_block_cipher.md R161). -/

/-- FP holds at position `IP[j]` the number `j`; here `j = k + 1`. -/
theorem tableFP_getD_tableIP : ∀ k < 64, tableFP.getD (tableIP.getD k 0 - 1) 0 = k + 1 := by decide

/-- Settles O35: the two laws are those of the permutations; the third is a fact of the tables. -/
theorem finalInvertsInitial : Obligations.FinalInvertsInitial :=
  ⟨fun x => ⟨permute_tableFP_tableIP x, permute_tableIP_tableFP x⟩, fun j h1 hj =>
    (tableFP_getD_tableIP (j - 1) (by omega)).trans (Nat.sub_add_cancel h1)⟩

/-! Round by round (43_block_cipher.md R162 to R165). -/

/-- The halves after the first `n` rounds. -/
def halvesAfter (b : Block) (sk : Vector Subkey 16) (dir : Direction) (n : Nat) : Half × Half :=
  feistelRounds (initialSplit b) ((roundKeys dir sk).take n)

theorem roundKeys_length (dir : Direction) (sk : Vector Subkey 16) : (roundKeys dir sk).length = 16 := by
  cases dir with
  | enc => exact sk.length_toList
  | dec => exact List.length_reverse.trans sk.length_toList

/-- To decrypt, the subkeys come last first (41_key_schedule.md R124). -/
theorem roundKeys_dec_getD (sk : Vector Subkey 16) {n : Nat} (hn : n < 16) :
    (roundKeys .dec sk).getD n 0 = sk.toList.getD (15 - n) 0 := by
  have hlen : n < sk.toList.length := sk.length_toList.symm ▸ hn
  rw [roundKeys, List.getD_reverse n hlen, sk.length_toList]

/-- Each further round takes the next subkey. -/
theorem halvesAfter_succ (b : Block) (sk : Vector Subkey 16) (dir : Direction) {n : Nat} (hn : n < 16) :
    halvesAfter b sk dir (n + 1) = feistelRound (halvesAfter b sk dir n) ((roundKeys dir sk).getD n 0) := by
  have hlen : n < (roundKeys dir sk).length := (roundKeys_length dir sk).symm ▸ hn
  rw [halvesAfter, List.take_succ_eq_append_getElem hlen, feistelRounds, List.foldl_append, List.foldl_cons,
    List.foldl_nil, List.getD_eq_getElem _ _ hlen, halvesAfter, feistelRounds]

theorem desBlock_eq_finalJoin_halvesAfter (b : Block) (sk : Vector Subkey 16) (dir : Direction) :
    desBlock b sk dir = finalJoin (halvesAfter b sk dir 16) := by
  rw [desBlock, halvesAfter, List.take_of_length_le (roundKeys_length dir sk).le]

/-- Settles O39: the halves are those of `halvesAfter`. -/
theorem blockRoundByRound : Obligations.BlockRoundByRound := by
  intro b sk dir
  refine ⟨fun n => (halvesAfter b sk dir n).1, fun n => (halvesAfter b sk dir n).2, rfl, rfl, fun n h1 hn => ?_,
    desBlock_eq_finalJoin_halvesAfter b sk dir⟩
  obtain ⟨m, rfl⟩ := Nat.exists_eq_add_of_le' h1
  simp only [halvesAfter_succ b sk dir hn, Nat.add_sub_cancel, feistelRound, true_and]
  cases dir with
  | enc => rfl
  | dec => rw [roundKeys_dec_getD sk hn, Nat.add_sub_add_right 15 1 m]

/-! ENC and DEC (43_block_cipher.md R166, R167). -/

/-- The command that runs the cipher in a direction. -/
def cipherCommand : Direction → Instr
  | .enc => .enc
  | .dec => .dec

theorem exists_eq_cipherCommand : ∀ i ∈ [Instr.enc, .dec], ∃ dir, i = cipherCommand dir := by
  simp only [List.forall_mem_cons]
  exact ⟨⟨.enc, rfl⟩, ⟨.dec, rfl⟩, nofun⟩

/-- Both commands hand out the schedule in encryption order, and DOUT by the direction. -/
theorem resultOf_cipherCommand (dir : Direction) (o : Operands) :
    resultOf (cipherCommand dir) o = .ok (.cipher (keySchedule o.key) (desEcb o.din (keySchedule o.key) dir)) := by
  cases dir with
  | enc => rfl
  | dec => rfl

theorem exec_cipherCommand {s : State} {p : Pending} (hp : s.pending = some p) (dir : Direction) :
    exec (cipherCommand dir) s = .next (s.writeResult (.cipher (keySchedule p.snap.key)
      (desEcb p.snap.din (keySchedule p.snap.key) dir))).finishDone := by
  rw [exec_of_pending _ s p hp, resultOf_cipherCommand, State.finish_ok]

/-- Settles O17: `exec_cipherCommand` with the written registers and both blocks spelt out. -/
theorem encEncryptsBothBlocks : Obligations.EncEncryptsBothBlocks :=
  fun _ _ hp => exec_cipherCommand hp .enc

/-- Settles O18: as O17, in the other direction. -/
theorem decDecryptsBothBlocks : Obligations.DecDecryptsBothBlocks :=
  fun _ _ hp => exec_cipherCommand hp .dec

/-! The two blocks are independent (43_block_cipher.md R168). -/

theorem desEcb_high (x : BitVec 128) (sk : Vector Subkey 16) (dir : Direction) :
    (desEcb x sk dir).extractLsb' 64 64 = desBlock (x.extractLsb' 64 64) sk dir :=
  BitVec.extractLsb'_append_eq_left

theorem desEcb_low (x : BitVec 128) (sk : Vector Subkey 16) (dir : Direction) :
    (desEcb x sk dir).extractLsb' 0 64 = desBlock (x.extractLsb' 0 64) sk dir :=
  BitVec.extractLsb'_append_eq_right

/-- Settles O37: each block of DOUT is `desBlock` of one block of DIN under the schedule of KEY, the same for both blocks. -/
theorem ecbBlocksAreIndependent : Obligations.EcbBlocksAreIndependent := by
  intro i hi s s' p p' hp hp' hkey
  obtain ⟨dir, rfl⟩ := exists_eq_cipherCommand i hi
  refine ⟨_, _, exec_cipherCommand hp dir, exec_cipherCommand hp' dir, ?_⟩
  simp only [State.finishDone_dout, State.writeResult_cipher_dout, desEcb_high, desEcb_low, hkey]
  exact ⟨fun h => by rw [h], fun h => by rw [h], fun h => by rw [h]⟩

/-! The round trip (43_block_cipher.md R169). -/

theorem roundKeys_dec_eq_reverse (sk : Vector Subkey 16) : roundKeys .dec sk = (roundKeys .enc sk).reverse := rfl

theorem roundKeys_enc_eq_reverse (sk : Vector Subkey 16) : roundKeys .enc sk = (roundKeys .dec sk).reverse :=
  (List.reverse_reverse sk.toList).symm

/-- A command of the opposite direction, run under the same KEY on what the first one made, hands the first one's DIN back. -/
theorem exec_cipherCommand_back {dir dir' : Direction}
    (hdir : ∀ sk, roundKeys dir' sk = (roundKeys dir sk).reverse) {s s' t : State} {p p' : Pending}
    (hp : s.pending = some p) (hp' : s'.pending = some p') (hkey : p'.snap.key = p.snap.key)
    (hdin : p'.snap.din = t.dout) (h : exec (cipherCommand dir) s = .next t) :
    ∃ t', exec (cipherCommand dir') s' = .next t' ∧ t'.dout = p.snap.din := by
  obtain rfl := Host.Outcome.next.inj ((exec_cipherCommand hp dir).symm.trans h)
  refine ⟨_, exec_cipherCommand hp' dir', ?_⟩
  simp only [State.finishDone_dout, State.writeResult_cipher_dout] at hdin ⊢
  rw [hkey, hdin, desEcb_desEcb (hdir _)]

/-- Settles O36: DEC uses the subkeys of ENC in the opposite order, and ENC those of DEC. -/
theorem cipherRoundTrip : Obligations.CipherRoundTrip :=
  ⟨fun b sk => ⟨desBlock_desBlock (roundKeys_dec_eq_reverse sk) b, desBlock_desBlock (roundKeys_enc_eq_reverse sk) b⟩,
    fun _ _ _ _ _ hp hp' hkey hdin => ⟨exec_cipherCommand_back roundKeys_dec_eq_reverse hp hp' hkey hdin,
      exec_cipherCommand_back roundKeys_enc_eq_reverse hp hp' hkey hdin⟩⟩

end Sys2Proof.Machine
end

section
/-! PROOFS. Keccak: lanes, one round and the 24 rounds, the padded block as lanes, and TOKENID (44_identity_economics.md
R180 to R188). -/

namespace Sys2Proof.Machine

/-- The entry of a table over the first `n` numbers. -/
theorem getD_map_range {α : Type} (f : Nat → α) (d : α) {n j : Nat} (hj : j < n) :
    ((List.range n).map f).getD j d = f j := by
  rw [List.getD_eq_getElem _ _ (by simpa using hj), List.getElem_map, List.getElem_range]

/-! The lanes of a state (44_identity_economics.md R182). -/

/-- Both indexes of a lane count modulo 5. -/
theorem lane_congr (a : List Lane) {x x' y y' : Nat} (hx : x % 5 = x' % 5) (hy : y % 5 = y' % 5) :
    lane a x y = lane a x' y' := by
  rw [lane, laneIndex, hx, hy, lane, laneIndex]

theorem lanesOf_length (f : Nat → Nat → Lane) : (lanesOf f).length = 25 := by
  rw [lanesOf, List.length_map, List.length_range]

theorem lane_lanesOf (f : Nat → Nat → Lane) (x y : Nat) : lane (lanesOf f) x y = f (x % 5) (y % 5) := by
  have hi : laneIndex x y < 25 := by unfold laneIndex; omega
  have hx : laneIndex x y % 5 = x % 5 := by unfold laneIndex; omega
  have hy : laneIndex x y / 5 = y % 5 := by unfold laneIndex; omega
  rw [lane, lanesOf, getD_map_range _ _ hi, hx, hy]

/-! The steps of a round (44_identity_economics.md R183, R184). -/

theorem columnParity_mod (a : List Lane) (x : Nat) : columnParity a (x % 5) = columnParity a x := by
  simp only [columnParity, lane_congr a (Nat.mod_mod x 5) rfl]

theorem thetaD_map_columnParity (a : List Lane) (x : Nat) :
    thetaD ((List.range 5).map (columnParity a)) x = columnParity a (x + 4) ^^^ rotl (columnParity a (x + 1)) 1 := by
  have hmod (n : Nat) : n % 5 < 5 := Nat.mod_lt n (by decide)
  rw [thetaD, getD_map_range _ _ (hmod _), getD_map_range _ _ (hmod _), columnParity_mod, columnParity_mod]

theorem lane_theta (a : List Lane) {x y : Nat} (hx : x < 5) (hy : y < 5) :
    lane (theta a) x y = lane a x y ^^^ (columnParity a (x + 4) ^^^ rotl (columnParity a (x + 1)) 1) := by
  rw [theta, lane_lanesOf, Nat.mod_eq_of_lt hx, Nat.mod_eq_of_lt hy, getD_map_range _ _ hx, thetaD_map_columnParity]

/-- `x = u + 3v` undoes `u = y`, `v = 2x + 3y`, modulo 5. -/
theorem lane_rhoPi (a : List Lane) (x y : Nat) :
    lane (rhoPi a) y (2 * x + 3 * y) = rotl (lane a x y) (rotationOffset x y) := by
  have hx : (y % 5 + 3 * ((2 * x + 3 * y) % 5)) % 5 = x % 5 := by omega
  rw [rhoPi, lane_lanesOf, lane_congr a hx (Nat.mod_mod y 5), rotationOffset, hx, Nat.mod_mod, rotationOffset]

theorem lane_chi (b : List Lane) {x y : Nat} (hx : x < 5) (hy : y < 5) :
    lane (chi b) x y = lane b x y ^^^ (~~~(lane b (x + 1) y) &&& lane b (x + 2) y) := by
  rw [chi, lane_lanesOf, Nat.mod_eq_of_lt hx, Nat.mod_eq_of_lt hy]

theorem iota_length (rc : Lane) (a : List Lane) : (iota rc a).length = a.length := by
  cases a with
  | nil => rfl
  | cons => rfl

theorem lane_iota (rc : Lane) {a : List Lane} (ha : a ≠ []) {x y : Nat} (hx : x < 5) (hy : y < 5) :
    lane (iota rc a) x y = lane a x y ^^^ (if x = 0 ∧ y = 0 then rc else 0) := by
  obtain ⟨a00, rest, rfl⟩ := List.exists_cons_of_ne_nil ha
  by_cases h : x = 0 ∧ y = 0
  · rw [if_pos h]
    obtain ⟨rfl, rfl⟩ := h
    rfl
  · obtain ⟨i, hi⟩ : ∃ i, laneIndex x y = i + 1 := Nat.exists_eq_add_one.2 (by unfold laneIndex; omega)
    rw [if_neg h, lane, lane, hi, iota, List.getD_cons_succ, List.getD_cons_succ]
    exact BitVec.xor_zero.symm

/-! The rounds (44_identity_economics.md R183). -/

/-- The state after the first `n` rounds. -/
def keccakRounds (a : List Lane) (n : Nat) : List Lane :=
  (List.range n).foldl (fun b ir => keccakRound b (roundConstant ir)) a

theorem keccakRounds_succ (a : List Lane) (n : Nat) :
    keccakRounds a (n + 1) = keccakRound (keccakRounds a n) (roundConstant n) := by
  rw [keccakRounds, List.range_succ, List.foldl_append, List.foldl_cons, List.foldl_nil, keccakRounds]

theorem keccakF_eq_keccakRounds (a : List Lane) : keccakF a = keccakRounds a 24 := rfl

theorem keccakRound_length (a : List Lane) (rc : Lane) : (keccakRound a rc).length = 25 := by
  rw [keccakRound, iota_length, chi, lanesOf_length]

theorem keccakF_length (a : List Lane) : (keccakF a).length = 25 := by
  rw [keccakF_eq_keccakRounds, keccakRounds_succ, keccakRound_length]

/-- Settles O40: the four steps lane by lane, and the rounds of `keccakRounds`. -/
theorem keccakRoundLaneByLane : Obligations.KeccakRoundLaneByLane := by
  refine fun a ha => ⟨fun x hx y hy => ⟨lane_theta a hx hy, lane_rhoPi a x y, lane_chi a hx hy, fun rc => ?_⟩,
    fun _ => rfl, keccakRounds a, rfl, fun n _ => keccakRounds_succ a n, keccakF_eq_keccakRounds a⟩
  exact lane_iota rc (List.ne_nil_of_length_pos (by omega)) hx hy

/-! Byte sequences as integers (44_identity_economics.md R182, R187). -/

/-- The first byte of a little-endian sequence is the least significant. -/
theorem natOfBytesLe_cons_testBit (b : Byte) (bs : List Byte) (j : Nat) :
    (natOfBytesLe (b :: bs)).testBit j = if j < 8 then b.getLsbD j else (natOfBytesLe bs).testBit (j - 8) := by
  rw [natOfBytesLe, Nat.add_comm, Nat.testBit_two_pow_mul_add (i := 8) _ b.isLt, BitVec.testBit_toNat]

theorem ofNat_natOfBytesLe_cons (w : Nat) (b : Byte) (bs : List Byte) :
    BitVec.ofNat (w + 8) (natOfBytesLe (b :: bs)) = BitVec.ofNat w (natOfBytesLe bs) ++ b := by
  apply BitVec.eq_of_getLsbD_eq
  intro j hj
  rw [BitVec.getLsbD_ofNat, natOfBytesLe_cons_testBit, BitVec.getLsbD_append, BitVec.getLsbD_ofNat, decide_eq_true hj,
    Bool.true_and]
  split
  · rfl
  · rw [decide_eq_true (by omega), Bool.true_and]

theorem natOfBytesLe_testBit (bs : List Byte) (k : Nat) {j : Nat} (hj : j < 8) :
    (natOfBytesLe bs).testBit (8 * k + j) = (bs.getD k 0).getLsbD j := by
  induction bs generalizing k with
  | nil => exact (Nat.zero_testBit _).trans BitVec.getLsbD_zero.symm
  | cons b bs ih =>
    rw [natOfBytesLe_cons_testBit]
    cases k with
    | zero => rw [Nat.mul_zero, Nat.zero_add, if_pos hj, List.getD_cons_zero]
    | succ k => rw [if_neg (by omega), show 8 * (k + 1) + j - 8 = 8 * k + j by omega, ih, List.getD_cons_succ]

theorem natOfBytesBe_eq_reverse (bs : List Byte) : natOfBytesBe bs = natOfBytesLe bs.reverse := by
  induction bs using List.reverseRecOn with
  | nil => rfl
  | append_singleton bs b ih =>
    rw [List.reverse_concat, natOfBytesLe, ← ih, Nat.add_comm, Nat.mul_comm, natOfBytesBe, List.foldl_concat,
      natOfBytesBe]

/-- A register that holds a big-endian byte sequence, byte by byte from its most significant end. -/
theorem ofNat_natOfBytesBe_extractLsb' {w : Nat} {bs : List Byte} (hw : w = 8 * bs.length) {j : Nat}
    (hj : j < bs.length) :
    (BitVec.ofNat w (natOfBytesBe bs)).extractLsb' (8 * (bs.length - 1 - j)) 8 = bs.getD j 0 := by
  have hlen : bs.length - 1 - j < bs.reverse.length := by rw [List.length_reverse]; omega
  apply BitVec.eq_of_getLsbD_eq
  intro i hi
  rw [BitVec.getLsbD_extractLsb', BitVec.getLsbD_ofNat, decide_eq_true hi, decide_eq_true (by omega), Bool.true_and,
    Bool.true_and, natOfBytesBe_eq_reverse, natOfBytesLe_testBit _ _ hi, List.getD_reverse _ (by omega)]
  congr 2
  omega

theorem bytesBe_getD {w : Nat} (v : BitVec w) {k j : Nat} (hj : j < k) :
    (bytesBe v k).getD j 0 = v.extractLsb' (8 * (k - 1 - j)) 8 :=
  getD_map_range _ _ hj

theorem bytesLe_getD {w : Nat} (v : BitVec w) {k j : Nat} (hj : j < k) :
    (bytesLe v k).getD j 0 = v.extractLsb' (8 * j) 8 :=
  getD_map_range _ _ hj

/-! The padded block of a descriptor (44_identity_economics.md R181, R182, R188). -/

/-- The block of 136 bytes cut into lanes of eight bytes. -/
theorem lanesOfBlock_tokenMessage (d : BitVec 32) (c : BitVec 128) :
    lanesOfBlock (tokenMessage d c ++ keccakPad 20) =
      [[d.extractLsb' 24 8, d.extractLsb' 16 8, d.extractLsb' 8 8, d.extractLsb' 0 8,
          c.extractLsb' 120 8, c.extractLsb' 112 8, c.extractLsb' 104 8, c.extractLsb' 96 8],
        [c.extractLsb' 88 8, c.extractLsb' 80 8, c.extractLsb' 72 8, c.extractLsb' 64 8,
          c.extractLsb' 56 8, c.extractLsb' 48 8, c.extractLsb' 40 8, c.extractLsb' 32 8],
        [c.extractLsb' 24 8, c.extractLsb' 16 8, c.extractLsb' 8 8, c.extractLsb' 0 8, 0x01, 0, 0, 0]].map
          (fun bs => BitVec.ofNat 64 (natOfBytesLe bs)) ++
        List.replicate 13 0 ++ [0x8000000000000000] ++ List.replicate 8 0 := rfl

theorem tokenMessage_length (d : BitVec 32) (c : BitVec 128) : (tokenMessage d c).length = 20 := by
  rw [tokenMessage, List.length_append, bytesBe_length, bytesBe_length]

/-- Settles O41: each lane joined byte by byte. -/
theorem tokenBlockLanes : Obligations.TokenBlockLanes := by
  refine fun d c => ⟨tokenMessage_length d c, (lanesOfBlock_tokenMessage d c).trans ?_⟩
  have hpad : BitVec.ofNat 32 (natOfBytesLe [0x01, 0, 0, 0]) = 0x00000001#32 := rfl
  simp only [List.map_cons, List.map_nil, ofNat_natOfBytesLe_cons, hpad, BitVec.zero_width_append, BitVec.cast_eq]

/-! The digest and TOKENID (44_identity_economics.md R186 to R188). -/

theorem flatMap_bytesLe_length (ls : List Lane) : (ls.flatMap (bytesLe · 8)).length = 8 * ls.length := by
  simp [List.length_flatMap, bytesLe_length, Nat.mul_comm]

/-- The bytes of lanes written one after the other, each least significant byte first. -/
theorem flatMap_bytesLe_getD (ls : List Lane) (j : Nat) :
    (ls.flatMap (bytesLe · 8)).getD j 0 = (ls.getD (j / 8) 0).extractLsb' (8 * (j % 8)) 8 := by
  induction ls generalizing j with
  | nil => exact BitVec.extractLsb'_zero.symm
  | cons l ls ih =>
    have hlen := bytesLe_length l 8
    rw [List.flatMap_cons]
    rcases Nat.lt_or_ge j 8 with hj | hj
    · rw [List.getD_append _ _ _ _ (by omega), bytesLe_getD l hj, Nat.div_eq_of_lt hj, Nat.mod_eq_of_lt hj,
        List.getD_cons_zero]
    · obtain ⟨k, rfl⟩ := Nat.exists_eq_add_of_le' hj
      rw [List.getD_append_right _ _ _ _ (by omega), hlen, Nat.add_sub_cancel, ih, Nat.add_mod_right,
        Nat.add_div_right k (by decide), List.getD_cons_succ]

theorem squeeze_length {a : List Lane} (ha : 4 ≤ a.length) : (squeeze a).length = 32 := by
  rw [squeeze, flatMap_bytesLe_length, List.length_take_of_le ha]

theorem squeeze_getD (a : List Lane) {j : Nat} (hj : j < 32) :
    (squeeze a).getD j 0 = (a.getD (j / 8) 0).extractLsb' (8 * (j % 8)) 8 := by
  rw [squeeze, flatMap_bytesLe_getD, List.getD_eq_getElem?_getD, List.getElem?_take_of_lt (by omega),
    ← List.getD_eq_getElem?_getD]

theorem keccak256_length (msg : List Byte) : (keccak256 msg).length = 32 :=
  squeeze_length (by rw [keccakF_length]; decide)

theorem keccak256_getD (msg : List Byte) {j : Nat} (hj : j < 32) :
    (keccak256 msg).getD j 0 =
      ((keccakF (lanesOfBlock (msg ++ keccakPad msg.length))).getD (j / 8) 0).extractLsb' (8 * (j % 8)) 8 :=
  squeeze_getD _ hj

theorem tokenMessage_getD_date (d : BitVec 32) (c : BitVec 128) {j : Nat} (hj : j < 4) :
    (tokenMessage d c).getD j 0 = d.extractLsb' (8 * (3 - j)) 8 := by
  rw [tokenMessage, List.getD_append _ _ _ _ (by rwa [bytesBe_length]), bytesBe_getD d hj]

theorem tokenMessage_getD_din (d : BitVec 32) (c : BitVec 128) {j : Nat} (hj : j < 16) :
    (tokenMessage d c).getD (4 + j) 0 = c.extractLsb' (8 * (15 - j)) 8 := by
  rw [tokenMessage, List.getD_append_right _ _ _ _ (by rw [bytesBe_length]; omega), bytesBe_length,
    Nat.add_sub_cancel_left, bytesBe_getD c hj]

theorem tokenIdOf_extractLsb' (d : BitVec 32) (c : BitVec 128) {j : Nat} (hj : j < 32) :
    (tokenIdOf d c).extractLsb' (8 * (31 - j)) 8 = (keccak256 (tokenMessage d c)).getD j 0 := by
  have hlen := keccak256_length (tokenMessage d c)
  have h := ofNat_natOfBytesBe_extractLsb' (w := 256) (by rw [hlen]) (hlen ▸ hj)
  rwa [hlen] at h

/-- The end of a command whose result is a digest. -/
theorem exec_of_digest {i : Instr} {s : State} {p : Pending} (hp : s.pending = some p) {h : BitVec 256}
    (hr : resultOf i p.snap = .ok (.digest h)) :
    exec i s = .next { s with
      hash := h
      hashDef := BitVec.allOnes 8
      status := ⟨false, true, false, 0⟩
      pending := none
      wait := 0 } := by
  rw [exec_of_pending i s p hp, hr]
  rfl

theorem resultOf_tokenid (o : Operands) : resultOf .tokenid o = .ok (.digest (tokenIdOf o.date o.din)) := rfl

/-- Settles O22: HASH is the identifier of the snapshot's descriptor, whose message has 20 bytes. -/
theorem tokenidHashesTheDescriptor : Obligations.TokenidHashesTheDescriptor := by
  intro s p hp
  refine ⟨_, exec_of_digest hp (resultOf_tokenid p.snap), tokenMessage p.snap.date p.snap.din, tokenMessage_length _ _,
    fun j hj => tokenMessage_getD_date _ _ hj, fun j hj => tokenMessage_getD_din _ _ hj, keccak256_length _,
    fun j hj => ⟨tokenIdOf_extractLsb' _ _ hj, ?_⟩⟩
  rw [keccak256_getD _ hj, tokenMessage_length]

end Sys2Proof.Machine
end

section
/-! PROOFS. The prices: MINTP and BURNR, and the laws of R194 (44_identity_economics.md R190 to R194). -/

namespace Sys2Proof.Machine

/-! The prices in closed form (44_identity_economics.md R191 to R193). -/

/-- Up to N_MINT_MAX no intermediate value exceeds MAXP. -/
theorem mintPrice_of_le {n : Nat} (h : n ≤ nMintMax) : mintPrice n = .ok (10 ^ 15 * (n + 10)) := by
  rcases mintPrice_cases n with ⟨-, -, e⟩ | ⟨hover, -⟩
  · rw [e, basePrice, coefficient]
    congr 1
    omega
  · simp only [maxPrice, coefficient, basePrice] at hover
    simp only [nMintMax] at h
    omega

/-- N_MINT_MAX is sharp: above it the sum exceeds MAXP. -/
theorem mintPrice_of_gt {n : Nat} (h : nMintMax < n) : mintPrice n = .error .overflow := by
  rcases mintPrice_cases n with ⟨-, hfits, -⟩ | ⟨-, e⟩
  · simp only [maxPrice, coefficient, basePrice] at hfits
    simp only [nMintMax] at h
    omega
  · exact e

/-- The reward at a supply in its range is a share of a mint price in its range. -/
theorem pred_le_nMintMax {n : Nat} (h : n ≤ nBurnMax) : n - 1 ≤ nMintMax :=
  (n.sub_le 1).trans (h.trans (by decide : nBurnMax ≤ nMintMax))

theorem burnReward_zero : burnReward 0 = .error .domain := if_pos rfl

/-- In its range the reward's division is exact: 10000 divides `10^15 * 9950`. -/
theorem burnReward_of_le {n : Nat} (h1 : 1 ≤ n) (h : n ≤ nBurnMax) :
    burnReward n = .ok (995 * 10 ^ 12 * (n + 9)) := by
  have hmint := mintPrice_of_le (pred_le_nMintMax h)
  rcases burnReward_cases n with ⟨h0, -⟩ | ⟨-, m, hm, -, e⟩ | ⟨-, hm, -⟩ | ⟨-, m, hm, hover, -⟩
  · omega
  · cases hm.symm.trans hmint
    rw [e, rewardNumerator, rewardDenominator]
    congr 1
    omega
  · cases hm.symm.trans hmint
  · cases hm.symm.trans hmint
    simp only [maxPrice, rewardNumerator] at hover
    simp only [nBurnMax] at h
    omega

/-- N_BURN_MAX is sharp: above it the mint price times 9950 exceeds MAXP, where there is a mint price. -/
theorem burnReward_of_gt {n : Nat} (h : nBurnMax < n) : burnReward n = .error .overflow := by
  rcases burnReward_cases n with ⟨h0, -⟩ | ⟨-, m, hm, hfits, -⟩ | ⟨-, -, e⟩ | ⟨-, -, -, -, e⟩
  · exact absurd (h0 ▸ h) (Nat.not_lt_zero _)
  · rcases mintPrice_cases (n - 1) with ⟨-, -, e⟩ | ⟨-, e⟩
    · cases hm.symm.trans e
      simp only [maxPrice, rewardNumerator, basePrice, coefficient] at hfits
      simp only [nBurnMax] at h
      omega
    · cases hm.symm.trans e
  · exact e
  · exact e

/-- Settles O42, from the closed forms. -/
theorem priceLaws : Obligations.PriceLaws :=
  ⟨fun _ hn => ⟨_, _, mintPrice_of_le (Nat.le_of_succ_le hn), mintPrice_of_le hn, by omega⟩,
    fun _ h1 hn => ⟨_, _, mintPrice_of_le (pred_le_nMintMax hn), burnReward_of_le h1 hn, by omega⟩,
    fun _ => mintPrice_of_gt, burnReward_zero, fun _ => burnReward_of_gt⟩

/-! MINTP and BURNR (44_identity_economics.md R191, R193). -/

theorem resultOf_mintp (o : Operands) : resultOf .mintp o = priceResult (mintPrice o.supply.toNat) := rfl

theorem resultOf_burnr (o : Operands) : resultOf .burnr o = priceResult (burnReward o.supply.toNat) := rfl

/-- The end of a command whose result is a price. PRICE holds it whole, for it does not exceed MAXP (R192). -/
theorem exec_of_price {i : Instr} {s : State} {p : Pending} (hp : s.pending = some p) {n : Nat} (hn : n ≤ maxPrice)
    (h : resultOf i p.snap = priceResult (.ok n)) :
    ∃ v : BitVec 256, v.toNat = n ∧
      exec i s = .next { s with
        price := v
        priceDef := BitVec.allOnes 8
        status := ⟨false, true, false, 0⟩
        pending := none
        wait := 0 } := by
  refine ⟨BitVec.ofNat 256 n, ?_, ?_⟩
  · rw [BitVec.toNat_ofNat, Nat.mod_eq_of_lt (Nat.lt_of_le_pred (by decide) hn)]
  · rw [exec_of_pending i s p hp, h]
    rfl

/-- The end of a command that has no price to answer. -/
theorem exec_of_priceError {i : Instr} {s : State} {p : Pending} (hp : s.pending = some p) (e : CoreError)
    (h : resultOf i p.snap = priceResult (.error e)) : exec i s = .next (s.raiseCoreError e) := by
  rw [exec_of_pending i s p hp, h]
  rfl

/-- Settles O23, from the mint price in closed form. -/
theorem mintpPriceOrOverflow : Obligations.MintpPriceOrOverflow := by
  refine fun s p hp => ⟨fun hn => ?_, fun hn => ?_⟩
  · exact exec_of_price hp (by simp only [maxPrice]; omega) (by rw [resultOf_mintp, mintPrice_of_le hn])
  · exact exec_of_priceError hp .overflow (by rw [resultOf_mintp, mintPrice_of_gt hn])

/-- Settles O24, from the burn reward in closed form. -/
theorem burnrRewardOrError : Obligations.BurnrRewardOrError := by
  refine fun s p hp => ⟨fun h1 hn => ?_, fun h0 => ?_, fun hn => ?_⟩
  · exact exec_of_price hp (by simp only [maxPrice]; omega) (by rw [resultOf_burnr, burnReward_of_le h1 hn])
  · exact exec_of_priceError hp .domain (by rw [resultOf_burnr, h0, burnReward_zero])
  · exact exec_of_priceError hp .overflow (by rw [resultOf_burnr, burnReward_of_gt hn])

end Sys2Proof.Machine
end

section
/-! PROOFS. The host-side codec: hex digits and ciphertext text, the rendering of bytes and its decoding
(45_host_codec.md R212 to R217). -/

namespace Sys2Proof.Machine

/-! Hex digits (45_host_codec.md R212, R213). -/

theorem hexValue_hexDigit : ∀ v < 16, hexValue (hexDigit v) = some v := by decide

theorem hexValue_hexDigit_high (b : Byte) : hexValue (hexDigit (b.toNat / 16)) = some (b.toNat / 16) :=
  hexValue_hexDigit _ (Nat.div_lt_of_lt_mul b.isLt)

theorem hexValue_hexDigit_low (b : Byte) : hexValue (hexDigit (b.toNat % 16)) = some (b.toNat % 16) :=
  hexValue_hexDigit _ (Nat.mod_lt _ (by decide))

/-- One more digit at the least significant end. -/
theorem hexNumber_concat {t : List Nat} {c n d : Nat} (ht : hexNumber t = some n) (hc : hexValue c = some d) :
    hexNumber (t ++ [c]) = some (16 * n + d) := by
  rw [hexNumber] at ht
  rw [hexNumber, List.foldl_concat, ht, hc]

/-! Big-endian byte sequences and their digits (45_host_codec.md R213). -/

theorem natOfBytesBe_concat (bs : List Byte) (b : Byte) :
    natOfBytesBe (bs ++ [b]) = natOfBytesBe bs * 256 + b.toNat := by
  rw [natOfBytesBe, List.foldl_concat, natOfBytesBe]

theorem hexNumber_flatMap_hexOfByte (bs : List Byte) : hexNumber (bs.flatMap hexOfByte) = some (natOfBytesBe bs) := by
  induction bs using List.reverseRecOn with
  | nil => rfl
  | append_singleton bs b ih =>
    have digits : (bs ++ [b]).flatMap hexOfByte =
        bs.flatMap hexOfByte ++ [hexDigit (b.toNat / 16)] ++ [hexDigit (b.toNat % 16)] := by
      simp [hexOfByte]
    rw [digits, hexNumber_concat (hexNumber_concat ih (hexValue_hexDigit_high b)) (hexValue_hexDigit_low b),
      natOfBytesBe_concat]
    congr 1
    omega

theorem flatMap_hexOfByte_length (bs : List Byte) : (bs.flatMap hexOfByte).length = 2 * bs.length := by
  simp [List.length_flatMap, hexOfByte, Nat.mul_comm]

/-- A register of `k` bytes is the number its big-endian bytes spell. -/
theorem ofNat_natOfBytesBe_bytesBe {w k : Nat} (hw : w = 8 * k) (v : BitVec w) :
    BitVec.ofNat w (natOfBytesBe (bytesBe v k)) = v := by
  apply BitVec.eq_of_getLsbD_eq
  intro i hi
  have hj : k - 1 - i / 8 < k := by omega
  have hbyte := ofNat_natOfBytesBe_extractLsb' (w := w) (bs := bytesBe v k) (by rw [bytesBe_length, hw])
    (by rwa [bytesBe_length])
  rw [bytesBe_getD v hj, bytesBe_length, show k - 1 - (k - 1 - i / 8) = i / 8 by omega] at hbyte
  have hbit := congrArg (·.getLsbD (i % 8)) hbyte
  simpa only [BitVec.getLsbD_extractLsb', Nat.mod_lt i (show 8 > 0 by decide), decide_true, Bool.true_and,
    Nat.div_add_mod] using hbit

/-! Ciphertext text (45_host_codec.md R212, R213). -/

theorem stripHexPrefix_ciphertextText (d : BitVec 128) :
    stripHexPrefix (ciphertextText d) = (bytesBe d 16).flatMap hexOfByte :=
  if_pos rfl

theorem ciphertextDigits_length (d : BitVec 128) : ((bytesBe d 16).flatMap hexOfByte).length = 32 := by
  rw [flatMap_hexOfByte_length, bytesBe_length]

/-- Settles O58: the digits of the text spell the number of the register's sixteen bytes. -/
theorem ciphertextTextReadsBack : Obligations.CiphertextTextReadsBack := by
  refine fun d => ⟨?_, ?_⟩
  · rw [ciphertextText, List.length_append, ciphertextDigits_length]
    rfl
  · rw [dinOfCiphertext, stripHexPrefix_ciphertextText, if_pos (ciphertextDigits_length d),
      hexNumber_flatMap_hexOfByte]
    exact congrArg Except.ok (ofNat_natOfBytesBe_bytesBe (k := 16) rfl d)

/-! Rendering (45_host_codec.md R215). -/

theorem renderByte_of_escaped {b : Byte} (h : isEscaped b = true) :
    renderByte b = [0x5C, 0x78, hexDigit (b.toNat / 16), hexDigit (b.toNat % 16)] :=
  if_pos h

theorem renderByte_of_not_escaped {b : Byte} (h : ¬ isEscaped b = true) : renderByte b = [b.toNat] :=
  if_neg h

theorem renderBytes_cons (b : Byte) (bs : List Byte) : renderBytes (b :: bs) = renderByte b ++ renderBytes bs :=
  List.flatMap_cons

/-- A rendering begins with `x` only where the bytes do, for an escape begins with a backslash. -/
theorem head?_of_head?_renderBytes {bs : List Byte} (h : (renderBytes bs).head? = some 0x78) :
    bs.head? = some 0x78 := by
  cases bs with
  | nil => cases h
  | cons b bs =>
    rw [renderBytes_cons] at h
    by_cases he : isEscaped b = true
    · rw [renderByte_of_escaped he] at h
      cases h
    · rw [renderByte_of_not_escaped he] at h
      have hb : b.toNat = 0x78 := Option.some.inj h
      exact congrArg some (BitVec.eq_of_toNat_eq hb)

/-! Decoding (45_host_codec.md R216). -/

theorem escapeByte_hexDigit (b : Byte) : escapeByte (hexDigit (b.toNat / 16)) (hexDigit (b.toNat % 16)) = some b := by
  rw [escapeByte, hexValue_hexDigit_high, hexValue_hexDigit_low]
  exact congrArg some (by rw [Nat.div_add_mod, BitVec.ofNat_toNat, BitVec.setWidth_eq])

theorem decodeEscapes_escape {h1 h0 : Nat} {b : Byte} (h : escapeByte h1 h0 = some b) (rest : List Nat) :
    decodeEscapes (0x5C :: 0x78 :: h1 :: h0 :: rest) = consByte b (decodeEscapes rest) := by
  rw [decodeEscapes, if_pos ⟨rfl, rfl⟩, h]

theorem decodeEscapes_malformed {h1 h0 : Nat} (h : escapeByte h1 h0 = none) (rest : List Nat) :
    decodeEscapes (0x5C :: 0x78 :: h1 :: h0 :: rest) = .error .invalidEscape := by
  rw [decodeEscapes, if_pos ⟨rfl, rfl⟩, h]

/-- A character of one byte that opens no escape stands for itself. -/
theorem decodeEscapes_toNat {b : Byte} {rest : List Nat} (h : ¬ (b.toNat = 0x5C ∧ rest.head? = some 0x78)) :
    decodeEscapes (b.toNat :: rest) = consByte b (decodeEscapes rest) := by
  have hb : isLatin1 b.toNat = true := decide_eq_true (Nat.le_of_lt_succ b.isLt)
  conv_lhs => unfold decodeEscapes
  rw [if_neg h, if_pos hb, BitVec.ofNat_toNat, BitVec.setWidth_eq]

/-- Decoding undoes the rendering of a first byte that is no backslash before an `x`. -/
theorem decodeEscapes_renderBytes_cons {b : Byte} {bs : List Byte} (h : ¬ (b = 0x5C ∧ bs.head? = some 0x78)) :
    decodeEscapes (renderBytes (b :: bs)) = consByte b (decodeEscapes (renderBytes bs)) := by
  rw [renderBytes_cons]
  by_cases he : isEscaped b = true
  · rw [renderByte_of_escaped he]
    exact decodeEscapes_escape (escapeByte_hexDigit b) _
  · rw [renderByte_of_not_escaped he]
    exact decodeEscapes_toNat fun ⟨hb, hx⟩ => h ⟨BitVec.eq_of_toNat_eq hb, head?_of_head?_renderBytes hx⟩

theorem decodeEscapes_renderBytes {bs : List Byte} (h : ¬ [0x5C, 0x78] <:+: bs) :
    decodeEscapes (renderBytes bs) = .ok bs := by
  induction bs with
  | nil => rfl
  | cons b bs ih =>
    have hb : ¬ (b = 0x5C ∧ bs.head? = some 0x78) := by
      rintro ⟨rfl, hx⟩
      obtain ⟨rest, rfl⟩ := List.head?_eq_some_iff.1 hx
      exact h ⟨[], rest, rfl⟩
    rw [decodeEscapes_renderBytes_cons hb, ih fun hi => h (hi.trans (List.suffix_cons b bs).isInfix)]
    rfl

/-- Settles O59, by induction on the bytes: each one's rendering is decoded to it. -/
theorem escapeRoundTrip : Obligations.EscapeRoundTrip :=
  fun _ h => decodeEscapes_renderBytes fun ⟨a, b, e⟩ => h ⟨a, b, e.symm⟩

/-- Refutes O60: the bytes of `\xg1` hold no backslash, `x` and two hex digits, for `g` is none; they render to
themselves, and decoding that text raises Invalid-Escape (95_test_vectors.md V72). -/
theorem not_escapeRoundTripAsWritten : ¬ Obligations.EscapeRoundTripAsWritten := by
  intro h
  have hok := h [0x5C, 0x78, 0x67, 0x31] (by
    rintro ⟨a, b, h1, h0, hv, -, e⟩
    have hsame := List.IsInfix.eq_of_length ⟨a, b, e.symm⟩ rfl
    cases hsame
    exact absurd hv (by decide))
  have herror : decodeEscapes (renderBytes [0x5C, 0x78, 0x67, 0x31]) = .error .invalidEscape :=
    decodeEscapes_malformed (by decide) []
  cases herror.symm.trans hok

end Sys2Proof.Machine
end

section
/-! PROOFS. The completion of the command in flight: when it is due, what it leaves, and that a command the platform does not
reset comes to it (60_exceptions.md R241, R243; 70_reset_and_hazards.md R291). -/

namespace Sys2Proof.Machine

/-! When a completion is due (60_exceptions.md R243). -/

theorem State.completes_iff {s : State} {p : Pending} (hp : s.pending = some p) :
    s.completes = true ↔ s.wait = 0 ∨ s.events = [] := by
  simp [State.completes, hp]

theorem State.completes_eq_false_iff (s : State) :
    s.completes = false ↔ s.pending = none ∨ (s.wait ≠ 0 ∧ s.events ≠ []) := by
  cases hp : s.pending with
  | none => simp [State.completes, hp]
  | some p => simp [State.completes, hp]

theorem step_eq_complete {s : State} {p : Pending} (hp : s.pending = some p) (hc : s.completes = true) :
    step s = s.complete p :=
  (step_of_completes hp hc).trans (State.complete_eq_finish hp).symm

/-- Settles O5: a due completion is `State.complete`, which goes by the decoder; every other step is the host's turn. -/
theorem stepRunsTheDecodedCommand : Obligations.StepRunsTheDecodedCommand := by
  refine ⟨fun s p i hp hdue hd => ?_, fun s p e hp hdue hd => ?_, fun s h => ?_⟩
  · rw [step_eq_complete hp ((State.completes_iff hp).2 hdue), State.complete_of_decode hd]
  · rw [step_eq_complete hp ((State.completes_iff hp).2 hdue), State.complete_of_illegal hd]
  · exact step_of_not_completes (s.completes_eq_false_iff.2 h)

/-! No step stops (60_exceptions.md R243, R250). -/

theorem exists_step_eq_next (s : State) : ∃ t, step s = .next t := by
  cases hc : s.completes with
  | true =>
    obtain ⟨p, hp⟩ := State.pending_of_completes hc
    exact ⟨_, step_of_completes hp hc⟩
  | false => exact ⟨_, step_of_not_completes hc⟩

theorem exists_exec_eq_next_iff (i : Instr) (s : State) :
    (∃ t, exec i s = .next t) ↔ s.pending.isSome = true := by
  rw [Option.isSome_iff_exists]
  constructor
  · rintro ⟨t, h⟩
    obtain ⟨p, hp, -⟩ := exec_next h
    exact ⟨p, hp⟩
  · rintro ⟨p, hp⟩
    exact ⟨_, exec_of_pending i s p hp⟩

theorem exec_of_idle (i : Instr) {s : State} (hp : s.pending = none) : exec i s = .fault .noCommandInFlight := by
  rw [exec_eq_runCommand, runCommand_of_idle _ _ hp]

/-- Settles O7, from what a step and a meaning answer in either case. -/
theorem everyStepAnswersNext : Obligations.EveryStepAnswersNext :=
  ⟨exists_step_eq_next, fun i s => ⟨exists_exec_eq_next_iff i s, exec_of_idle i⟩⟩

/-! All results or none (60_exceptions.md R241, R242). -/

theorem mintPrice_le_maxPrice {n v : Nat} (h : mintPrice n = .ok v) : v ≤ maxPrice := by
  rcases mintPrice_cases n with ⟨-, hle, e⟩ | ⟨-, e⟩
  · cases h.symm.trans e
    exact hle
  · cases h.symm.trans e

theorem burnReward_le_maxPrice {n v : Nat} (h : burnReward n = .ok v) : v ≤ maxPrice := by
  rcases burnReward_cases n with ⟨-, e⟩ | ⟨-, m, -, hle, e⟩ | ⟨-, -, e⟩ | ⟨-, m, -, -, e⟩
  · cases h.symm.trans e
  · cases h.symm.trans e
    exact (Nat.div_le_self _ _).trans hle
  · cases h.symm.trans e
  · cases h.symm.trans e

/-- A price that does not exceed MAXP is in PRICE what it was computed to be (44_identity_economics.md R192). -/
theorem eq_price_of_priceResult {q : Except CoreError Nat} (hle : ∀ v, q = .ok v → v ≤ maxPrice) {r : Result}
    (h : priceResult q = .ok r) : ∃ b : BitVec 256, r = .price b ∧ q = .ok b.toNat := by
  cases q with
  | error e => cases h
  | ok v =>
    cases h
    refine ⟨_, rfl, ?_⟩
    rw [BitVec.toNat_ofNat, Nat.mod_eq_of_lt (Nat.lt_of_le_pred (by decide) (hle v rfl))]

/-- The end of a command whose rule gave a result: every word of its result registers is defined, and they hold what the
rule says. -/
theorem State.finish_holdsResults (s : State) {i : Instr} {o : Operands} {r : Result} (h : resultOf i o = .ok r) :
    (s.finish (.ok r)).resultsDefined i ∧ (s.finish (.ok r)).holdsResults o i := by
  cases i
  case mintp =>
    obtain ⟨b, rfl, hb⟩ := eq_price_of_priceResult (fun _ => mintPrice_le_maxPrice) h
    exact ⟨rfl, hb⟩
  case burnr =>
    obtain ⟨b, rfl, hb⟩ := eq_price_of_priceResult (fun _ => burnReward_le_maxPrice) h
    exact ⟨rfl, hb⟩
  case enc => cases h; exact ⟨⟨rfl, rfl⟩, rfl, rfl⟩
  case dec => cases h; exact ⟨⟨rfl, rfl⟩, rfl, rfl⟩
  all_goals cases h; exact ⟨rfl, rfl⟩

theorem CoreError.code_mem (e : CoreError) : e.code ∈ [0x01#8, 0x02#8, 0x03#8] := by
  cases e <;> decide

/-- Settles O27: the outcome of the word in flight is its command's result, or a core error. -/
theorem allResultsOrNone : Obligations.AllResultsOrNone := by
  intro s t p hp h
  obtain rfl := State.complete_next hp h
  cases ho : p.outcome with
  | error e => exact .inr ⟨rfl, e.code_mem, s.raiseCoreError_sameResults e⟩
  | ok r =>
    cases hd : Sys2Proof.decode p.word with
    | error e => cases (Pending.outcome_of_illegal hd).symm.trans ho
    | ok i => exact .inl ⟨i, rfl, rfl, s.finish_holdsResults ((Pending.outcome_of_decode hd).symm.trans ho)⟩

/-! A command in flight comes to its completion (60_exceptions.md R243, 70_reset_and_hazards.md R291). -/

theorem State.KeepsRegisters.refl (s : State) : s.KeepsRegisters s :=
  s.keepsRegisters_of_host _ _ _ _

theorem State.KeepsRegisters.trans {s t u : State} (h : s.KeepsRegisters t) (h' : t.KeepsRegisters u) :
    s.KeepsRegisters u := by
  obtain ⟨hops, hcmd, hst, hp, hd, hh, hpr, hrk, hdd, hhd, hpd, hrd⟩ := h
  obtain ⟨hops', hcmd', hst', hp', hd', hh', hpr', hrk', hdd', hhd', hpd', hrd'⟩ := h'
  exact ⟨hops'.trans hops, hcmd'.trans hcmd, hst'.trans hst, hp'.trans hp, hd'.trans hd, hh'.trans hh, hpr'.trans hpr,
    hrk'.trans hrk, hdd'.trans hdd, hhd'.trans hhd, hpd'.trans hpd, hrd'.trans hrd⟩

/-- While BUSY the host's turn can only read or fault, unless the event is Reset: it takes one event and one step of the
latency, and keeps every register. -/
theorem State.hostTurn_of_busy {s : State} {e : HostEvent} {es : List HostEvent} (hb : s.status.busy = true)
    (he : s.events = e :: es) (hne : e ≠ .reset) :
    s.KeepsRegisters s.hostTurn ∧ s.hostTurn.events = es ∧ s.hostTurn.wait = s.wait - 1 := by
  rw [State.hostTurn_eq_event he]
  have hbusy : (s.taking es).status.busy = true := hb
  rcases (s.taking es).event_cases e with
    ⟨v, h⟩ | ⟨r, h⟩ | ⟨_, _, _, _, -, hidle, -⟩ | ⟨_, _, _, -, hidle, -⟩ | ⟨hreset, -⟩
  · rw [h]
    exact ⟨s.keepsRegisters_of_host _ _ _ _, rfl, rfl⟩
  · rw [h]
    exact ⟨s.keepsRegisters_of_host _ _ _ _, rfl, rfl⟩
  · cases hbusy.symm.trans hidle
  · cases hbusy.symm.trans hidle
  · exact absurd hreset hne

/-- A command in flight that no Reset abandons comes to its completion before its latency is over, with every register as
it was. By induction on the steps left of the latency. -/
theorem exists_run_completes {s : State} {p : Pending} (hp : s.pending = some p) (hb : s.status.busy = true)
    (hr : ∀ e ∈ s.events.take s.wait, e ≠ .reset) :
    ∃ k u, k ≤ s.wait ∧ Host.Core.run Sys2Proof.core k s = .next u ∧ s.KeepsRegisters u ∧ u.completes = true := by
  induction hw : s.wait generalizing s with
  | zero => exact ⟨0, s, Nat.le_refl 0, rfl, .refl s, (State.completes_iff hp).2 (.inl hw)⟩
  | succ n ih =>
    cases he : s.events with
    | nil => exact ⟨0, s, Nat.zero_le _, rfl, .refl s, (State.completes_iff hp).2 (.inr he)⟩
    | cons e es =>
      rw [he, hw, List.take_succ_cons, List.forall_mem_cons] at hr
      obtain ⟨hk, hes, hwait⟩ := State.hostTurn_of_busy hb he hr.1
      rw [hw, Nat.add_sub_cancel] at hwait
      have hstep : step s = .next s.hostTurn :=
        step_of_not_completes (s.completes_eq_false_iff.2 (.inr ⟨by omega, by simp [he]⟩))
      obtain ⟨k, u, hkn, hrun, hku, hc⟩ :=
        ih (hk.pending.trans hp) (by rw [hk.status, hb]) (by rw [hes, hwait]; exact hr.2) hwait
      exact ⟨k + 1, u, Nat.succ_le_succ hkn, (run_succ hstep k).trans hrun, hk.trans hku, hc⟩

/-- Settles O10: where the run comes to the completion, the next step is the end of the command. -/
theorem commandCompletesWithinLatency : Obligations.CommandCompletesWithinLatency := by
  intro s p hi hp hr hf
  obtain ⟨hb, -, -⟩ := hi.status_of_pending hp
  obtain ⟨k, u, hk, hrun, hkeep, hc⟩ := exists_run_completes hp hb hr
  have hpu : u.pending = some p := hkeep.pending.trans hp
  have hfu : u.fault = none := hf k u hk hrun
  exact ⟨k, u, _, hk, hrun, hpu, hkeep.ops, hkeep.results, hc, step_of_completes hpu hc, u.finish_pending _,
    u.finish_busy _, (u.finish_fault _).trans hfu⟩

end Sys2Proof.Machine
end

section
/-! PROOFS. The issue of a word: UNDEF_OPERAND before any change, the effect of an issue, and the words that are no command
(60_exceptions.md R240, R244, R252). -/

namespace Sys2Proof.Machine

/-! The issue (60_exceptions.md R240). -/

/-- A word whose command, if it is one, has its operand words defined is issued. -/
theorem State.issue_of_ready {s : State} {w : Word}
    (h : ∀ i, Sys2Proof.decode w = .ok i → operandsDefined i s.ops = true) : s.issue w = .ok (s.launch w) := by
  cases hd : Sys2Proof.decode w with
  | error e => simp only [State.issue, hd]
  | ok i => simp only [State.issue, hd, h i hd, if_true]

theorem State.issue_of_undefined {s : State} {w : Word} {i : Instr} (hd : Sys2Proof.decode w = .ok i)
    (ho : operandsDefined i s.ops = false) : s.issue w = .error .undefOperand := by
  simp [State.issue, hd, ho]

theorem hostWrite_cmd_of_ready {s : State} {w : Word} (hb : s.status.busy = false)
    (h : ∀ i, Sys2Proof.decode w = .ok i → operandsDefined i s.ops = true) :
    hostWrite 0x000 4 w s = .ok { s.launch w with cmd := w } := by
  simp [hostWrite_cmd, hb, State.issue_of_ready h]

theorem hostWrite_cmd_of_undefined {s : State} {w : Word} {i : Instr} (hb : s.status.busy = false)
    (hd : Sys2Proof.decode w = .ok i) (ho : operandsDefined i s.ops = false) :
    hostWrite 0x000 4 w s = .error .undefOperand := by
  simp [hostWrite_cmd, hb, State.issue_of_undefined hd ho]

theorem hostWrite_cmd_of_busy {s : State} (w : Word) (hb : s.status.busy = true) :
    hostWrite 0x000 4 w s = .error .busyAccess := by
  rw [hostWrite_cmd, if_pos hb]

theorem operandsDefined_eq_false_iff (i : Instr) (o : Operands) :
    operandsDefined i o = false ↔ ∃ u ∈ operandWords i, o.defined u = false := by
  simp [operandsDefined]

/-- UNDEF_OPERAND is raised for a command with an undefined operand word, and in no other case (60_exceptions.md R252). -/
theorem hostWrite_cmd_undefOperand_iff {s : State} {w : Word} :
    hostWrite 0x000 4 w s = .error .undefOperand ↔
      s.status.busy = false ∧ ∃ i, Sys2Proof.decode w = .ok i ∧ operandsDefined i s.ops = false := by
  constructor
  · intro h
    cases hb : s.status.busy with
    | true => cases (hostWrite_cmd_of_busy w hb).symm.trans h
    | false =>
      refine ⟨rfl, by_contra fun hn => ?_⟩
      have ready : ∀ i, Sys2Proof.decode w = .ok i → operandsDefined i s.ops = true :=
        fun i hd => by_contra fun ho => hn ⟨i, hd, Bool.eq_false_iff.2 ho⟩
      cases (hostWrite_cmd_of_ready hb ready).symm.trans h
  · rintro ⟨hb, i, hd, ho⟩
    exact hostWrite_cmd_of_undefined hb hd ho

/-- Settles O14: the check of the operand words, and what `launch` sets. -/
theorem issueEffect : Obligations.IssueEffect := by
  refine fun s w => ⟨fun hb => ⟨?_, fun h => ?_⟩, hostWrite_cmd_of_busy w⟩
  · rintro ⟨i, u, hd, hu, ho⟩
    exact hostWrite_cmd_of_undefined hb hd ((operandsDefined_eq_false_iff i s.ops).2 ⟨u, hu, ho⟩)
  · have ready i (hd : Sys2Proof.decode w = .ok i) : operandsDefined i s.ops = true :=
      (operandsDefined_iff i s.ops).2 fun u hu => h i u hd hu
    exact ⟨_, hostWrite_cmd_of_ready hb ready, rfl, rfl, rfl, rfl, ⟨rfl, rfl, rfl, rfl, rfl, rfl, rfl, rfl⟩, rfl, rfl, rfl⟩

/-- The step in which the host's write of a ready word to CMD is the next event (60_exceptions.md R240). -/
theorem step_write_cmd {s : State} {w : Word} {es : List HostEvent} (hp : s.pending = none) (hb : s.status.busy = false)
    (he : s.events = .write 0x000 4 w :: es) (h : ∀ i, Sys2Proof.decode w = .ok i → operandsDefined i s.ops = true) :
    step s = .next { (s.taking es).launch w with cmd := w } := by
  rw [step_of_not_completes (s.completes_eq_false_iff.2 (.inl hp)), State.hostTurn_eq_event he]
  simp only [State.event, hostWrite_cmd_of_ready (s := s.taking es) hb h]

/-- With no event left the command in flight is the next step, and the last (60_exceptions.md R243; log 4). -/
theorem exists_last_step {t : State} {p : Pending} {i : Instr} (hp : t.pending = some p) (he : t.events = [])
    (hf : t.unfaulted) (hd : Sys2Proof.decode p.word = .ok i) :
    ∃ u, step t = .next u ∧ exec i t = .next u ∧ u.pending = none ∧ u.status.busy = false ∧ u.final := by
  have hexec := exec_of_pending i t p hp
  have hfinal : (t.finish (resultOf i p.snap)).final :=
    ⟨t.finish_pending _, (t.finish_events _).trans he, (t.finish_fault _).trans hf⟩
  exact ⟨_, (stepRunsTheDecodedCommand.1 t p i hp (.inr he) hd).trans hexec, hexec, t.finish_pending _, t.finish_busy _,
    hfinal⟩

/-- Settles O6: the host's turn is the issue, and with no event left the completion is the next step. -/
theorem issueThenCompletion : Obligations.IssueThenCompletion := by
  intro s i hf hp hb he ho
  have hd : Sys2Proof.decode (encode i) = .ok i := decode_eq_ok_iff.2 rfl
  have ready j (hj : Sys2Proof.decode (encode i) = .ok j) : operandsDefined j s.ops = true := by
    cases hd.symm.trans hj
    exact ho
  obtain ⟨u, hu⟩ := exists_last_step (t := { (s.taking []).launch (encode i) with cmd := encode i }) rfl rfl hf hd
  exact ⟨_, u, step_write_cmd hp hb he ready, rfl, rfl, rfl, rfl, ⟨rfl, rfl, rfl, rfl, rfl, rfl, rfl, rfl⟩, hf, hu⟩

/-! Definedness of the operand words, as bits (10_state.md R37, 30_encoding.md R85). -/

theorem eq_allOnes_iff {n : Nat} (v : BitVec n) : v = BitVec.allOnes n ↔ ∀ j : Fin n, v.getLsbD j.val = true := by
  constructor
  · rintro rfl j
    simp
  · intro h
    apply BitVec.eq_of_getLsbD_eq
    intro j hj
    rw [h ⟨j, hj⟩, BitVec.getLsbD_allOnes, decide_eq_true hj]

theorem keyWords_defined_iff (o : Operands) : (∀ u ∈ keyWords, o.defined u = true) ↔ o.keyDef = 0x3 := by
  refine Iff.trans ?_ (eq_allOnes_iff o.keyDef).symm
  simp [keyWords, Operands.defined, Fin.forall_fin_succ]

theorem supplyWords_defined_iff (o : Operands) : (∀ u ∈ supplyWords, o.defined u = true) ↔ o.supplyDef = 0xFF := by
  refine Iff.trans ?_ (eq_allOnes_iff o.supplyDef).symm
  simp [supplyWords, Operands.defined, Fin.forall_fin_succ]

theorem date_defined_iff (o : Operands) : o.defined .date = true ↔ o.dateDef = 0x1 := by
  refine Iff.trans ?_ (eq_allOnes_iff o.dateDef).symm
  simp [Operands.defined]

theorem mem_dinWords {n : Nat} (hn : n ≤ 4) (u : OperandWord) : u ∈ dinWords n ↔ ∃ k : Fin 4, k.val < n ∧ u = .din k := by
  interval_cases n <;> simp [dinWords, Fin.exists_fin_succ]

theorem dinWords_defined_iff (o : Operands) {n : Nat} (hn : n ≤ 4) :
    (∀ u ∈ dinWords n, o.defined u = true) ↔ o.dinDef.extractLsb' 0 n = BitVec.allOnes n := by
  rw [eq_allOnes_iff]
  constructor
  · intro h j
    have := h (.din ⟨j, by omega⟩) ((mem_dinWords hn _).2 ⟨_, j.isLt, rfl⟩)
    simpa [Operands.defined] using this
  · intro h u hu
    obtain ⟨k, hk, rfl⟩ := (mem_dinWords hn u).1 hu
    simpa [Operands.defined, hk] using h ⟨k, hk⟩

theorem din_defined_iff (o : Operands) : (∀ u ∈ dinWords 4, o.defined u = true) ↔ o.dinDef = 0xF := by
  simpa using dinWords_defined_iff o (n := 4) (by decide)

theorem cipherWords_defined_iff (o : Operands) :
    (∀ u ∈ keyWords ++ dinWords 4, o.defined u = true) ↔ o.keyDef = 0x3 ∧ o.dinDef = 0xF := by
  rw [List.forall_mem_append, keyWords_defined_iff, din_defined_iff]

theorem descriptorWords_defined_iff (o : Operands) :
    (∀ u ∈ OperandWord.date :: dinWords 4, o.defined u = true) ↔ o.dateDef = 0x1 ∧ o.dinDef = 0xF := by
  rw [List.forall_mem_cons, date_defined_iff, din_defined_iff]

/-- On an idle core a command raises UNDEF_OPERAND unless all its operand words are defined. -/
theorem hostWrite_encode_undefOperand_iff {s : State} (hb : s.status.busy = false) (i : Instr) :
    hostWrite 0x000 4 (encode i) s = .error .undefOperand ↔ ¬ ∀ u ∈ operandWords i, s.ops.defined u = true := by
  rw [hostWrite_cmd_undefOperand_iff, ← operandsDefined_iff, Bool.not_eq_true]
  constructor
  · rintro ⟨-, j, hj, ho⟩
    obtain rfl : i = j := Except.ok.inj ((decode_eq_ok_iff.2 rfl).symm.trans hj)
    exact ho
  · exact fun ho => ⟨hb, i, decode_eq_ok_iff.2 rfl, ho⟩

/-- Settles O15: row by row of the words-read column. -/
theorem undefOperandExactly : Obligations.UndefOperandExactly := by
  refine ⟨fun s i hb => ?_, fun s w e hd h => ?_⟩
  · have din {n : Nat} (hn : n ≤ 4) := not_congr (dinWords_defined_iff s.ops hn)
    rw [hostWrite_encode_undefOperand_iff hb]
    cases i
    case ksched => exact not_congr (keyWords_defined_iff _)
    case enc => exact (not_congr (cipherWords_defined_iff _)).trans not_and_or
    case dec => exact (not_congr (cipherWords_defined_iff _)).trans not_and_or
    case feist => exact din (n := 3) (by decide)
    case permE => exact din (n := 1) (by decide)
    case permP => exact din (n := 1) (by decide)
    case tokenid => exact (not_congr (descriptorWords_defined_iff _)).trans not_and_or
    case mintp => exact not_congr (supplyWords_defined_iff _)
    case burnr => exact not_congr (supplyWords_defined_iff _)
    all_goals exact din (n := 2) (by decide)
  · obtain ⟨-, i, hi, -⟩ := hostWrite_cmd_undefOperand_iff.1 h
    cases hd.symm.trans hi

/-! Illegal words (60_exceptions.md R244, 30_encoding.md R84). -/

/-- The four causes of R244: the opcode is none, a selector where none belongs, a selector of PERM that is none, or
reserved bits. -/
def HasIllegalCause (w : Word) : Prop :=
  (w.extractLsb' 0 8 = 0 ∨ 0x0A ≤ (w.extractLsb' 0 8).toNat) ∨
    (w.extractLsb' 8 4 ≠ 0 ∧ w.extractLsb' 0 8 ≠ 0x06) ∨
    (w.extractLsb' 0 8 = 0x06 ∧ 6 ≤ (w.extractLsb' 8 4).toNat) ∨ w.extractLsb' 12 20 ≠ 0

/-- The causes are what keeps the fields of a word from being well formed. -/
theorem hasIllegalCause_iff (w : Word) : HasIllegalCause w ↔ ¬ ∃ i, Sys2Proof.decode w = .ok i := by
  rw [← legalWord_iff_exists_decode, legalWord, CommandFields.wellFormed_iff, HasIllegalCause,
    CommandFields.ofWord_op, CommandFields.ofWord_sel, CommandFields.ofWord_res]
  simp only [ne_eq, ← BitVec.toNat_inj, BitVec.ofNat_eq_ofNat, BitVec.toNat_ofNat]
  omega

/-- Settles O4: a word with a cause decodes to no command, so that nothing is checked at its issue and its outcome is
ILLEGAL_CMD. -/
theorem illegalWordOnlyReports : Obligations.IllegalWordOnlyReports := by
  refine fun w => ⟨fun h => ?_, fun h => not_not.1 (mt (hasIllegalCause_iff w).2 h)⟩
  have hw : ¬ ∃ i, Sys2Proof.decode w = .ok i := (hasIllegalCause_iff w).1 h
  refine ⟨fun s hb => hostWrite_cmd_of_ready hb fun i hi => absurd ⟨i, hi⟩ hw, ?_⟩
  rintro s p hp rfl hc
  cases hd : Sys2Proof.decode p.word with
  | ok i => exact absurd ⟨i, hd⟩ hw
  | error e => rw [step_eq_complete hp hc, State.complete_of_illegal hd]; rfl

end Sys2Proof.Machine
end

section
/-! PROOFS. The busy hazard and the event Reset: what an access does while a command is in flight, and what the step that
takes Reset leaves (70_reset_and_hazards.md R270, R271, R280). -/

namespace Sys2Proof.Machine

/-! Accesses while BUSY (70_reset_and_hazards.md R280). -/

/-- A read that is refused sets FAULT to the reason, and nothing else. -/
theorem State.event_read_of_error {s : State} {off width : Nat} {r : HostFault}
    (h : hostRead off width s = .error r) : s.event (.read off width) = { s with fault := some r } := by
  simp only [State.event, h, State.raiseHostFault]

/-- While BUSY no writable word takes a write; RO_WRITE comes first for the others (60_exceptions.md R247). -/
theorem hostWrite_of_busy {off : Nat} {x : WindowWord} (h4 : off % 4 = 0) (h : wordAt off = some x)
    (hx : x.readOnly = false) (v : Word) {s : State} (hb : s.status.busy = true) :
    hostWrite off 4 v s = .error .busyAccess := by
  rw [hostWrite_mapped h4 h, if_neg (Bool.eq_false_iff.1 hx), if_pos hb]

/-- The word at an offset is no word whose own offset is another. -/
theorem ne_of_wordAt_of_ne_offset {off : Nat} {x y : WindowWord} (h4 : off % 4 = 0) (h : wordAt off = some x)
    (hoff : off ≠ y.offset) : x ≠ y := by
  rintro rfl
  exact hoff (wordAt_some h4 h).symm

/-- Settles O46: STATUS and CMD are always defined and may be read; BUSY refuses every other read and every write of a
writable word, and a refused access only sets FAULT. -/
theorem busyHazard : Obligations.BusyHazard := by
  intro s hb
  obtain ⟨hstatus, hstatus4⟩ := wordAt_offset .status
  obtain ⟨hcmd, hcmd4⟩ := wordAt_offset .cmd
  refine ⟨?_, ?_, fun off v x h4 h hx => ?_, fun off x h4 h hs hc => ?_⟩
  · obtain ⟨-, -, hread, -, hdef⟩ := readReturnsTheWord s _ _ hstatus4 hstatus
    exact (hread (.inr (.inl rfl)) hdef).1
  · obtain ⟨-, -, hread, hdef, -⟩ := readReturnsTheWord s _ _ hcmd4 hcmd
    exact (hread (.inr (.inr rfl)) hdef).1
  · exact State.event_write_of_error (hostWrite_of_busy h4 h hx v hb)
  · have hxs : x ≠ .status := ne_of_wordAt_of_ne_offset h4 h hs
    have hxc : x ≠ .cmd := ne_of_wordAt_of_ne_offset h4 h hc
    exact State.event_read_of_error ((readReturnsTheWord s off x h4 h).1 hb hxs hxc)

/-! The event Reset (70_reset_and_hazards.md R270, R271). -/

/-- The step in which Reset is the next event: a core reset, whether or not a command is in flight. -/
theorem step_reset {s : State} {es : List HostEvent} (he : s.events = .reset :: es) (hc : s.completes = false) :
    step s = .next (s.taking es).coreReset := by
  rw [step_of_not_completes hc, State.hostTurn_eq_event he, State.event]

/-- Settles O13: the step is a core reset, which defines no data word and leaves FAULT and the host's events. -/
theorem resetEventKeepsFault : Obligations.ResetEventKeepsFault := by
  intro s es he hc
  have hundef x (hxc : x ≠ .cmd) (hxs : x ≠ .status) : (s.taking es).coreReset.defined x = false :=
    ((s.taking es).coreReset_undefined x hxc hxs).1
  exact ⟨_, step_reset he hc, State.coreReset_pending _, State.coreReset_cmd _, State.coreReset_status _, hundef,
    State.coreReset_fault _, State.coreReset_events _⟩

end Sys2Proof.Machine
end
